-- ==== Sys2Proof/Word.lean ====
section
/-! DEFINITION. The bit-vector types whose widths the source itself gives (`00_scope.md` R4, R5, R6). The two
widths that are the spec's own decisions, `ILEN` and `REG_BITS`, stand in the layout table,
`Sys2Proof/Machine/Layout.lean`. -/

namespace Sys2Proof

/-- A register value or a data word: 32 bits, bit 31 the most significant (R4 `XLEN`; R5). -/
abbrev Word := BitVec 32

/-- A word address of instruction memory or of data memory: 16 bits (R4 `PC_BITS`, `DADDR_BITS`). -/
abbrev Addr := BitVec 16

/-- The immediate field: 16 bits (R4 `IMM_BITS`; `30_encoding.md` R61). -/
abbrev Imm := BitVec 16

/-- The status register: C is bit 3, V bit 2, N bit 1, Z bit 0 (`10_state.md` R27). -/
abbrev Status := BitVec 4

/-- The CC field of a branch: a mask over the status bits (`41_branch.md` R130). -/
abbrev CondMask := BitVec 4

end Sys2Proof
end

