-- ==== Sys2Proof/Config.lean ====
section
/-! DEFINITION. What an implementation of SISC fixes (`00_scope.md` R4), and the free values. The values
this model takes for the parameters stand in `Sys2Proof/Machine/Settings.lean`, those of the instruction word's
layout in `Sys2Proof/Machine/Layout.lean`. -/

namespace Sys2Proof

/-- What SHR shifts in at the top: the parameter `SHR_FILL` (`00_scope.md` R4, `40_alu.md` R114). -/
inductive ShrFill where
  /-- Zeros: the logical shift, the spec's default. -/
  | zero
  /-- Copies of bit 31: the arithmetic shift, the other reading. -/
  | sign
deriving DecidableEq, Repr

/-- A field of the instruction word: its lowest bit and its width (`30_encoding.md` R62). -/
structure BitField where
  lo : Nat
  width : Nat
deriving DecidableEq, Repr

/-- The layout of the instruction word: one row per field that some instruction uses (R62). The unused rows of R62
are the bits that no used field covers: `Instr.unusedBits`. -/
structure Layout where
  /-- `ILEN`, the width of an instruction word (`92_eei_decisions.md` D1). -/
  ilen : Nat
  /-- `REG_BITS`, the width of a register number (D2). -/
  regBits : Nat
  opcode : BitField
  /-- MM, which in a branch is CC. -/
  mm : BitField
  rd : BitField
  rs : BitField
  rt : BitField
  funct : BitField
  imm : BitField
deriving DecidableEq, Repr

/-- The parameters of `00_scope.md` R4 that are decisions of the spec. The others (`XLEN`, `PC_BITS` and the like)
are the source's own and are the types of `Sys2Proof/Word.lean`. -/
structure Config where
  /-- `ILEN`, `REG_BITS` and the field positions (`92_eei_decisions.md` D1, D2). -/
  layout : Layout
  /-- `NREGS` (D2). -/
  nregs : Nat
  /-- `IMEM_WORDS` (D6). -/
  imemWords : Nat
  /-- `DMEM_WORDS` (D6). -/
  dmemWords : Nat
  /-- `UNIFIED_MEMORY` (D5). -/
  unifiedMemory : Bool
  /-- `RESET_PC` (D18). -/
  resetPc : Addr
  /-- `ADI_WRITES_STATUS` (D7, open with a default). -/
  adiWritesStatus : Bool
  /-- `LOGIC_SHIFT_WRITE_STATUS` (D8). -/
  logicShiftWriteStatus : Bool
  /-- `SHIFT_AMOUNT`: the count a shift or rotate takes from the value of Rt (D12, open with a default). -/
  shiftAmount : Word → Nat
  /-- `SHR_FILL` (D11, open with a default). -/
  shrFill : ShrFill
  /-- `STRICT_UNUSED_BITS` (D3). -/
  strictUnusedBits : Bool

/-- FREE VALUE, log 15. Whether the `n`-th draw of a run, made by LDP or LDR with `Rd` = `Rs` not R0, leaves
the loaded word in the register (true) or the updated base (false): `42_load_store_swap.md` R150 allows either
"as a draw" and says that a model "must not pick one". -/
opaque Config.keepsLoadedWord : Nat → Bool

/-- FREE VALUE, log 11. The status that the `n`-th draw of a run leaves after a logic, shift or rotate
instruction where `logicShiftWriteStatus` is true: the spec states no status for them
(`93_implementation_defined.md` U9). Never drawn under the default setting. -/
opaque Config.unstatedStatus : Nat → Status

end Sys2Proof
end

