-- ==== Sys2Proof/Machine/Layout.lean ====
section
/-! DEFINITION. The layout of the instruction word that this model takes: the one table that places its fields. The
types below are as wide as the table says, and the decoder, the encoder and the unused bits are computed from it. A
later source overrules the layout by changing the table. -/

namespace Sys2Proof

/-- The table of `30_encoding.md` R62: opcode 31:28, MM or CC 27:24, Rd 23:20, Rs 19:16, Rt 15:12, funct 3:0, imm
15:0, of a word of 32 bits, with register numbers of 4 (`92_eei_decisions.md` D1, D2; UNVERIFIED, unsafe: log 3,
log 4). A register field or immediate of another width than its type does not compile. -/
@[reducible] def layout : Layout where
  ilen := 32
  regBits := 4
  opcode := ⟨28, 4⟩
  mm := ⟨24, 4⟩
  rd := ⟨20, 4⟩
  rs := ⟨16, 4⟩
  rt := ⟨12, 4⟩
  funct := ⟨0, 4⟩
  imm := ⟨0, 16⟩

/-- An instruction word: `ILEN` bits (`30_encoding.md` R60). -/
abbrev InstrWord := BitVec layout.ilen

/-- A register number as the instruction word holds it: `REG_BITS` bits (`10_state.md` R20). -/
abbrev RegNum := BitVec layout.regBits

/-- The number of R0 (`10_state.md` R21). -/
abbrev regZero : RegNum := 0#layout.regBits

/-- How many registers have storage: every number that a register field can hold, but R0 (R20, R21). -/
abbrev storedRegs : Nat := 2 ^ layout.regBits - 1

end Sys2Proof
end

