-- ==== Sys2Proof/Machine/Settings.lean ====
section
/-! DEFINITION. The values of the parameters of `00_scope.md` R4 that this model takes: the spec's defaults.
A later source overrules one by changing its line here. -/

namespace Sys2Proof.Machine

/-- The default of `SHIFT_AMOUNT`: the low five bits of the value of Rt (`40_alu.md` R104, D12). UNVERIFIED,
unsafe: log 12. -/
def lowFiveBits (v : Word) : Nat := (v.extractLsb' 0 5).toNat

/-- The parameter values of R4. UNVERIFIED, unsafe: `layout` log 3, `nregs` log 4, `unifiedMemory` log 5, `imemWords` and `dmemWords` log 25, `resetPc`
log 19, `adiWritesStatus` log 10, `logicShiftWriteStatus` log 11, `shiftAmount` and `shrFill` log 12,
`strictUnusedBits` log 8. -/
def settings : Config where
  layout := Sys2Proof.layout
  nregs := 16
  imemWords := 65536
  dmemWords := 65536
  unifiedMemory := false
  resetPc := 0x0000#16
  adiWritesStatus := true
  logicShiftWriteStatus := false
  shiftAmount := lowFiveBits
  shrFill := .zero
  strictUnusedBits := false

/-- What R1 to R15 hold after reset. The spec gives them no value (`10_state.md` R36): DESIGN CHOICE, unsafe (log 1). -/
def resetRegs : Vector Word storedRegs := Vector.replicate storedRegs 0#32

/-- What STAT holds after reset. The spec gives it no value (R36): DESIGN CHOICE, unsafe (log 2). -/
def resetStat : Status := 0#4

end Sys2Proof.Machine
end

