-- ==== Sys2Proof/Machine/State.lean ====
section
/-! DEFINITION. The state of the machine (`10_state.md`), the reasons for which a step can stop
(`60_exceptions.md` R171), and the state after reset (`10_state.md` R36). -/

namespace Sys2Proof.Machine

/-- Either memory, its words `n` bits wide: a list of (word address, word) pairs. The machine has no byte
(`20_memory.md` R40), so the unit is the word (log 6). The canonical form is `Memory.wf` in `Ops.lean`: addresses strictly rising and below
65536. An address that is not listed holds no value (`70_reset_and_hazards.md` R191; log 7). -/
abbrev Memory (n : Nat) := List (Nat × BitVec n)

/-- Running or halted (`10_state.md` R34). -/
inductive RunState where
  | running
  | halted
deriving DecidableEq, Repr

/-- The whole state of the machine (`10_state.md`). Register R0 has no storage (R21), so entry `k` of `regs` is
register R(k+1). -/
structure State where
  /-- R1 to R15 (R20). -/
  regs : Vector Word storedRegs
  /-- The program counter, a word address of instruction memory (R24). -/
  pc : Addr
  /-- The status register: C, V, N, Z from bit 3 down (R27). -/
  stat : Status
  /-- Instruction memory (R31). Under `UNIFIED_MEMORY` the one memory as the run began (`20_memory.md` R49; log 5). -/
  imem : Memory layout.ilen
  /-- Data memory (R32). Under `UNIFIED_MEMORY` the words stored during the run, which lie over `imem`. -/
  dmem : Memory 32
  /-- The run state (R34). -/
  run : RunState
  /-- The MODEL's own field, not the spec's: how many free values the run has drawn (log 15, log 17). -/
  draws : Nat
deriving DecidableEq, Repr

/-- What a read found without a value (`70_reset_and_hazards.md` R191). -/
inductive Unwritten where
  /-- The instruction word at this address. -/
  | instructionWord (a : Addr)
  /-- The data word at this address. -/
  | dataWord (a : Addr)
deriving DecidableEq, Repr

/-- The spec's model outcomes in place of exceptions (`60_exceptions.md` R171). Each carries the address of the
instruction that stopped. -/
inductive Fault where
  /-- Raised by decode: the fetched word matches no row of the opcode table (`30_encoding.md` R73; D4). Safe: what
  the hardware does with such a word is unknown, and the model stops. -/
  | illegalInstruction (word : InstrWord) (addr : Addr)
  /-- Raised by the fetch and by the four loads: the word read has had no value (`70_reset_and_hazards.md` R191;
  D18). Safe: the model stops where the hardware reads something unknown. -/
  | readBeforeWrite (what : Unwritten) (addr : Addr)
deriving DecidableEq, Repr

/-- What the model refuses. With the settings of `Settings.lean` none of the last five is ever raised. -/
inductive Refusal where
  /-- Raised by an arm of `exec` whose instruction has no meaning yet. Safe: the model stops. -/
  | notModelled (mnemonic : String)
  /-- Raised by the fetch where `imemWords` is set below 65536 and the PC is at or above it (`20_memory.md` R45,
  D6). Safe: the model stops. -/
  | outsideInstructionMemory (a : Addr)
  /-- Raised by a load or store where `dmemWords` is set below 65536 and the data address `a` is at or above it
  (R45, D6); `addr` is the instruction's address. Safe: the model stops. -/
  | outsideDataMemory (a addr : Addr)
  /-- Raised by the fetch where `unifiedMemory` is set and a store of this run has written the word at the PC: such a
  model "must refuse a fetch from any address stored to during the run" (`20_memory.md` R49, D5). Safe: the model
  stops. -/
  | fetchOfStoredWord (a : Addr)
  /-- Raised by decode where `strictUnusedBits` is set and an unused field is not zero (`30_encoding.md` R74, D3).
  Safe: the model stops. -/
  | nonzeroUnusedBits (word : InstrWord) (addr : Addr)
  /-- Raised after decode where `nregs` is set below 16 and the word names a register at or above it (D2). Safe:
  the model stops. -/
  | noSuchRegister (word : InstrWord) (addr : Addr)
deriving DecidableEq, Repr

/-- What a meaning answers. -/
abbrev Result := Host.Outcome State Fault Refusal

/-- The machine right after reset (`10_state.md` R36, `70_reset_and_hazards.md` R190): PC = `RESET_PC`, running, and
nothing in either memory, since what is there is what the host loaded. The spec gives R1 to R15 and STAT no value:
zero is DESIGN CHOICE, unsafe (log 1, log 2). `draws` is the model's own (log 17). -/
def State.reset : State where
  regs := resetRegs
  pc := settings.resetPc
  stat := resetStat
  imem := []
  dmem := []
  run := .running
  draws := 0

end Sys2Proof.Machine
end

