-- ==== Sys2Proof/Machine/Flags.lean ====
section
/-! DEFINITION. The status bits: how an addition and a subtraction compute them (`40_alu.md` R101, R102), and how
a branch tests them (`41_branch.md` R130). -/

namespace Sys2Proof.Machine

/-- `{C, V, N, Z}`, C being bit 3 (`00_scope.md` R7). -/
def packStatus (c v n z : Bool) : Status :=
  BitVec.ofBool c ++ BitVec.ofBool v ++ BitVec.ofBool n ++ BitVec.ofBool z

/-- Carry, bit 3 (`10_state.md` R27). -/
def statusC (v : Status) : Bool := v.getLsbD 3
/-- Overflow, bit 2. -/
def statusV (v : Status) : Bool := v.getLsbD 2
/-- Negative, bit 1. -/
def statusN (v : Status) : Bool := v.getLsbD 1
/-- Zero, bit 0. -/
def statusZ (v : Status) : Bool := v.getLsbD 0

/-- C of an addition: the carry out of bit 31 (R101). -/
def addCarry (a b : Word) : Bool := decide (2 ^ 32 ≤ a.toNat + b.toNat)
/-- V of an addition: the operands' signs agree and the result's does not (R101). -/
def addOverflow (a b : Word) : Bool := (a.msb == b.msb) && ((a + b).msb != a.msb)
/-- C of a subtraction: the borrow (R102; D22, UNVERIFIED, unsafe: log 14). -/
def subBorrow (a b : Word) : Bool := decide (a.toNat < b.toNat)
/-- V of a subtraction: the operands' signs differ and the result's is not the minuend's (R102). -/
def subOverflow (a b : Word) : Bool := (a.msb != b.msb) && ((a - b).msb != a.msb)
/-- N: bit 31 of the result, inverted on overflow, which is the sign of the exact result (R101, R102; D27,
UNVERIFIED, unsafe: log 14). -/
def exactSign (result : Word) (overflow : Bool) : Bool := result.msb ^^ overflow
/-- Z: the 32-bit result is zero (R101, R102; D13, UNVERIFIED, unsafe: log 14). -/
def resultZero (result : Word) : Bool := result == 0#32

/-- `AddStatus(a, b)` (R101). -/
def addStatus (a b : Word) : Status :=
  packStatus (addCarry a b) (addOverflow a b) (exactSign (a + b) (addOverflow a b)) (resultZero (a + b))

/-- `SubStatus(a, b)` (R102). -/
def subStatus (a b : Word) : Status :=
  packStatus (subBorrow a b) (subOverflow a b) (exactSign (a - b) (subOverflow a b)) (resultZero (a - b))

/-- `hit`: some status bit that CC selects is 1 (`41_branch.md` R130). With CC = 0000 it is false whatever STAT
holds. -/
def condHit (cc : CondMask) (stat : Status) : Bool := (cc &&& stat) != 0#4

end Sys2Proof.Machine
end

