-- ==== Sys2Proof/Machine/Ops.lean ====
section
/-! DEFINITION. The named operations over memory, registers and the rest of the state. The hardware takes no
exception and returns from none (`60_exceptions.md` R170, R174, R175); what stands in place of exception entry is
the one operation `raiseFault`, the spec's fault primitive (`00_scope.md` R9). -/

namespace Sys2Proof.Machine

/-! ### Memory -/

/-- Reading one word, either memory's smallest unit (`20_memory.md` R40, R42). `none`: the address is not listed,
the word holds no value (log 7). -/
def Memory.find {n : Nat} : Memory n → Nat → Option (BitVec n)
  | [], _ => none
  | (b, w) :: m, a => if b = a then some w else Memory.find m a

/-- Writing one word, keeping the addresses strictly rising (`00_scope.md` R8 `MemWrite`). -/
def Memory.put {n : Nat} : Memory n → Nat → BitVec n → Memory n
  | [], a, v => [(a, v)]
  | (b, w) :: m, a, v =>
    if a < b then (a, v) :: (b, w) :: m
    else if a = b then (a, v) :: m
    else (b, w) :: Memory.put m a v

/-- Every listed address lies above `lo` and below 65536, and the addresses rise strictly. -/
def Memory.risesFrom {n : Nat} : Nat → Memory n → Bool
  | _, [] => true
  | lo, (b, _) :: m => decide (lo ≤ b) && decide (b < 65536) && Memory.risesFrom (b + 1) m

/-- The canonical form: addresses strictly rising, all below 65536 (`20_memory.md` R45). An address that is not
listed holds no value, so no entry can equal what an unlisted address reads as. -/
def Memory.wf {n : Nat} (m : Memory n) : Bool := Memory.risesFrom 0 m

/-- The host's image, written to consecutive addresses from `a` on, modulo 2^16 (`60_exceptions.md` R183). -/
def Memory.putWords {n : Nat} (m : Memory n) (a : Addr) : List (BitVec n) → Memory n
  | [] => m
  | w :: ws => Memory.putWords (m.put a.toNat w) (a + 1#16) ws

/-! ### One memory or two (`20_memory.md` R49; D5, log 5) -/

/-- What a load finds at `a`: the word in data memory. Where the two memories are one, it is the word stored there
during the run, or else the word of the image. -/
def findData (unified : Bool) (image : Memory layout.ilen) (stored : Memory 32) (a : Nat) : Option Word :=
  if unified then
    match stored.find a with
    | some v => some v
    | none => (image.find a).map (BitVec.setWidth 32)
  else stored.find a

/-- Whether a fetch from `a` is refused: the two memories are one and the run has stored to `a`. -/
def fetchRefused (unified : Bool) (stored : Memory 32) (a : Nat) : Bool := unified && (stored.find a).isSome

/-- The image with the words of `stored` in it. -/
def mergeStores (image : Memory layout.ilen) : Memory 32 → Memory layout.ilen
  | [] => image
  | (a, v) :: m => mergeStores (image.put a (v.setWidth layout.ilen)) m

/-- A run begins: where the two memories are one, what earlier runs stored becomes part of the image. -/
def State.beginRun (s : State) (unified : Bool) : State :=
  if unified then { s with imem := mergeStores s.imem s.dmem, dmem := [] } else s

/-! ### General registers -/

/-- Every register number but R0's names an entry of the register file. -/
theorem regIndex_lt {r : RegNum} (h : r ≠ regZero) : r.toNat - 1 < storedRegs := by
  have h0 : r.toNat ≠ 0 := fun e => h (BitVec.eq_of_toNat_eq e)
  have hr := r.isLt
  unfold storedRegs
  omega

/-- The register file's read of a register number (`10_state.md` R21): R0 is zero. -/
def regGet (f : Vector Word storedRegs) (r : RegNum) : Word :=
  if h : r = regZero then 0#32 else f[r.toNat - 1]'(regIndex_lt h)

/-- The register file's write of a register number (R21): a write to R0 changes nothing. -/
def regSet (f : Vector Word storedRegs) (r : RegNum) (v : Word) : Vector Word storedRegs :=
  if h : r = regZero then f else f.set (r.toNat - 1) v (regIndex_lt h)

/-- `x[r]` (`00_scope.md` R7). -/
def State.readReg (s : State) (r : RegNum) : Word := regGet s.regs r

/-- `x[r] <- v` (R7). -/
def State.writeReg (s : State) (r : RegNum) (v : Word) : State := { s with regs := regSet s.regs r v }

/-! ### Program counter, status, run state -/

/-- `pc <- t` (R7). -/
def State.setPc (s : State) (t : Addr) : State := { s with pc := t }

/-- The increment that comes with the fetch: `pc <- a +16 1`, wrapping at 0xFFFF (`10_state.md` R24, R26, R35). -/
def State.advance (s : State) : State := s.setPc (s.pc + 1#16)

/-- The address of the executing instruction: the PC already holds it plus 1 (R24). -/
def State.instrAddr (s : State) : Addr := s.pc - 1#16

/-- `STAT <- {C, V, N, Z}` (R7). -/
def State.setStat (s : State) (v : Status) : State := { s with stat := v }

/-- `halted <- true` (`43_nop_hlt.md` R161). -/
def State.halt (s : State) : State := { s with run := .halted }

/-! ### Free values -/

/-- One more free value has been drawn (log 15). -/
def State.drawn (s : State) : State := { s with draws := s.draws + 1 }

/-! ### The fault primitive -/

/-- `raise` (`00_scope.md` R9): the run ends, no state is changed, no control transferred. -/
def raiseFault {α : Type} (f : Fault) : Host.Outcome α Fault Refusal := .fault f

/-- Going on with an answer, or stopping as it stops. -/
def andThen {α β : Type} (o : Host.Outcome α Fault Refusal) (k : α → Host.Outcome β Fault Refusal) :
    Host.Outcome β Fault Refusal :=
  match o with
  | .next a => k a
  | .fault f => .fault f
  | .refused r => .refused r

/-! ### Memory of the state -/

/-- What instruction memory holds at `a`, if anything (`10_state.md` R31). -/
def State.instrAt (s : State) (a : Addr) : Option InstrWord := s.imem.find a.toNat

/-- What data memory holds at `a`, if anything (R32). -/
def State.dataAt (s : State) (a : Addr) : Option Word := findData settings.unifiedMemory s.imem s.dmem a.toNat

/-- `MemRead(a, 1)` (`00_scope.md` R8). A word without a value stops the model (`70_reset_and_hazards.md` R191; log
7); an address beyond a smaller implemented memory is refused (`20_memory.md` R45; log 25). -/
def State.loadWord (s : State) (a : Addr) : Host.Outcome Word Fault Refusal :=
  if a.toNat < settings.dmemWords then
    match s.dataAt a with
    | some w => .next w
    | none => raiseFault (.readBeforeWrite (.dataWord a) s.instrAddr)
  else .refused (.outsideDataMemory a s.instrAddr)

/-- `MemWrite(a, 1, v)` without the size check. -/
def State.putData (s : State) (a : Addr) (v : Word) : State := { s with dmem := s.dmem.put a.toNat v }

/-- `MemWrite(a, 1, v)` (R8), refused beyond a smaller implemented memory (R45; log 25). -/
def State.storeWord (s : State) (a : Addr) (v : Word) : Result :=
  if a.toNat < settings.dmemWords then .next (s.putData a v)
  else .refused (.outsideDataMemory a s.instrAddr)

/-- One word of the host's image in instruction memory (`60_exceptions.md` R183). -/
def State.putInstr (s : State) (a : Addr) (w : InstrWord) : State :=
  let t := s.beginRun settings.unifiedMemory
  { t with imem := t.imem.put a.toNat w }

/-- `IFetch(a)` at the PC (`00_scope.md` R8, `20_memory.md` R43, R49). -/
def State.fetchWord (s : State) : Host.Outcome InstrWord Fault Refusal :=
  if s.pc.toNat < settings.imemWords then
    if fetchRefused settings.unifiedMemory s.dmem s.pc.toNat then .refused (.fetchOfStoredWord s.pc)
    else
      match s.instrAt s.pc with
      | some w => .next w
      | none => raiseFault (.readBeforeWrite (.instructionWord s.pc) s.pc)
  else .refused (.outsideInstructionMemory s.pc)

/-! ### The two writes of LDP and LDR -/

/-- The loaded word goes to `rd` and the updated base to `rs` (`42_load_store_swap.md` R144, R145). Where both are
the same register other than R0 the spec does not say which write is kept: the register takes one of the two values
"as a draw" (R150; FREE VALUE, safe: log 15). Where both are R0 both writes are discarded. -/
def State.writeLoadedAndBase (s : State) (rd rs : RegNum) (loaded base : Word) : State :=
  if rd = rs ∧ rd ≠ regZero then
    (s.writeReg rd (if Config.keepsLoadedWord s.draws then loaded else base)).drawn
  else (s.writeReg rd loaded).writeReg rs base

/-! ### The host and reset -/

/-- The host loads a program into instruction memory from address 0x0000 on (`70_reset_and_hazards.md` R193;
`60_exceptions.md` R183; log 21). -/
def State.loadProgram (s : State) (ws : List InstrWord) : State :=
  let t := s.beginRun settings.unifiedMemory
  { t with imem := t.imem.putWords 0#16 ws }

/-- The host loads a data image from address `a` on (R183); where the two memories are one, into that one. -/
def State.loadData (s : State) (a : Addr) (ws : List Word) : State :=
  let t := s.beginRun settings.unifiedMemory
  if settings.unifiedMemory then { t with imem := t.imem.putWords a (ws.map (BitVec.setWidth layout.ilen)) }
  else { t with dmem := t.dmem.putWords a ws }

/-- Reset of a machine that may have run: PC = `RESET_PC`, running, memories kept, registers and STAT in the state
`State.reset` has them in (`70_reset_and_hazards.md` R190, R192; log 22). -/
def State.applyReset (s : State) : State :=
  let t := s.beginRun settings.unifiedMemory
  { State.reset with imem := t.imem, dmem := t.dmem, draws := t.draws }

end Sys2Proof.Machine
end

