-- ==== Sys2Proof/Machine/Operands.lean ====
section
/-! DEFINITION. The operand forms: the five uses of the immediate (`30_encoding.md` R67), the effective addresses
and the base update (`42_load_store_swap.md` R141), and the shift and rotate count (`40_alu.md` R104). -/

namespace Sys2Proof.Machine

/-- `sext_32(imm)` (`00_scope.md` R6): the 32-bit value with the same signed reading. -/
def sext32 (imm : Imm) : Word := imm.signExtend 32

/-- The base-plus-offset sum, all 32 bits (R141): `x[Rs] +32 sext_32(imm)`. -/
def State.baseSum (s : State) (rs : RegNum) (imm : Imm) : Word := s.readReg rs + sext32 imm

/-- A 32-bit value "truncated to 16 bits to form the data memory address" (`20_memory.md` R44). -/
def dataAddr (v : Word) : Addr := v.setWidth 16

/-- The address of LDX, STX, LDP and STP: `sum[15:0]` (R141). -/
def State.indexedAddr (s : State) (rs : RegNum) (imm : Imm) : Addr := dataAddr (s.baseSum rs imm)

/-- The address of LDR and STR: `x[Rs][15:0]` (R141; D24, UNVERIFIED, unsafe: log 26). -/
def State.registerAddr (s : State) (rs : RegNum) : Addr := dataAddr (s.readReg rs)

/-- The address of LDA and STA, and the target of BRA and BNE: the 16 bits as they are (R67). -/
def absoluteAddr (imm : Imm) : Addr := imm

/-- The target of BRR and BNR: the incremented PC plus the offset, modulo 2^16 (`41_branch.md` R131). -/
def State.relativeTarget (s : State) (offset : Imm) : Addr := s.pc + offset

/-- The count of a shift or rotate: `SHIFT_AMOUNT(x[Rt])` (R104; D12, UNVERIFIED, unsafe: log 12). -/
def State.shiftCount (s : State) (rt : RegNum) : Nat := settings.shiftAmount (s.readReg rt)

end Sys2Proof.Machine
end

