-- ==== Sys2Proof/Machine/Alu.lean ====
section
/-! DEFINITION. The eleven instructions of opcode 1000 (`40_alu.md`). All operands are read from `s`, before any
write (R100). None stops for its operand values (R116). -/

namespace Sys2Proof.Machine

/-! ### Shared operations -/

/-- An addition or subtraction that writes STAT, also where `rd` is R0 (R103; D13). -/
def State.arith (s : State) (rd : RegNum) (status : Status) (result : Word) : State :=
  (s.setStat status).writeReg rd result

/-- What a logic, shift or rotate instruction does to STAT: nothing (R103; D8, UNVERIFIED, unsafe: log 11), but for
the setting `logicShiftWriteStatus`, under which the spec states no value and STAT takes a free one. -/
def State.logicStatus (s : State) : State :=
  if settings.logicShiftWriteStatus then (s.setStat (Config.unstatedStatus s.draws)).drawn else s

/-- A logic, shift or rotate result. -/
def State.logic (s : State) (rd : RegNum) (result : Word) : State := s.logicStatus.writeReg rd result

/-- SHR's shift under either `SHR_FILL` (R114; D11, log 12). -/
def shiftRight (fill : ShrFill) (v : Word) (n : Nat) : Word :=
  match fill with
  | .zero => v >>> n
  | .sign => v.sshiftRight n

/-! ### Add and subtract -/

/-- ADI (R105): the status only under `ADI_WRITES_STATUS` (D7, UNVERIFIED, unsafe: log 10). -/
def execAdi (rd rs : RegNum) (imm : Imm) (s : State) : Result :=
  let a := s.readReg rs
  let b := sext32 imm
  .next (s.arith rd (if settings.adiWritesStatus then addStatus a b else s.stat) (a + b))

/-- ADD (R106). -/
def execAdd (rd rs rt : RegNum) (s : State) : Result :=
  let a := s.readReg rs
  let b := s.readReg rt
  .next (s.arith rd (addStatus a b) (a + b))

/-- SUB (R107): Rs is the minuend, Rt the subtrahend. -/
def execSub (rd rs rt : RegNum) (s : State) : Result :=
  let a := s.readReg rs
  let b := s.readReg rt
  .next (s.arith rd (subStatus a b) (a - b))

/-! ### Logic -/

/-- NOT (R108): the Rt field is not read. -/
def execNot (rd rs : RegNum) (s : State) : Result := .next (s.logic rd (~~~s.readReg rs))

/-- OR (R109). -/
def execOr (rd rs rt : RegNum) (s : State) : Result := .next (s.logic rd (s.readReg rs ||| s.readReg rt))

/-- AND (R110). -/
def execAnd (rd rs rt : RegNum) (s : State) : Result := .next (s.logic rd (s.readReg rs &&& s.readReg rt))

/-- XOR (R111). -/
def execXor (rd rs rt : RegNum) (s : State) : Result := .next (s.logic rd (s.readReg rs ^^^ s.readReg rt))

/-! ### Rotates and shifts -/

/-- RTR, rotate right (R112; D11, UNVERIFIED, unsafe: log 13). -/
def execRtr (rd rs rt : RegNum) (s : State) : Result :=
  .next (s.logic rd ((s.readReg rs).rotateRight (s.shiftCount rt)))

/-- RTL, rotate left (R113; D11, UNVERIFIED, unsafe: log 13). -/
def execRtl (rd rs rt : RegNum) (s : State) : Result :=
  .next (s.logic rd ((s.readReg rs).rotateLeft (s.shiftCount rt)))

/-- SHR, shift right (R114; D11, UNVERIFIED, unsafe: log 12). -/
def execShr (rd rs rt : RegNum) (s : State) : Result :=
  .next (s.logic rd (shiftRight settings.shrFill (s.readReg rs) (s.shiftCount rt)))

/-- SHL, shift left (R115). -/
def execShl (rd rs rt : RegNum) (s : State) : Result :=
  .next (s.logic rd (s.readReg rs <<< s.shiftCount rt))

end Sys2Proof.Machine
end

