-- ==== Sys2Proof/Machine/Branch.lean ====
section
/-! DEFINITION. The four branches (`41_branch.md`). The PC already holds the branch's address plus 1 (`10_state.md`
R24), which is what a branch not taken leaves (R25; `90_conflicts.md` C1). No branch writes STAT, a register or
memory, and none has a delay slot (R137). -/

namespace Sys2Proof.Machine

/-- "If the branch is taken, the PC is loaded with the branch target address" (R131). -/
def State.branchIf (s : State) (taken : Bool) (target : Addr) : State := if taken then s.setPc target else s

/-- BRA (R132): absolute, taken if any selected status bit is 1. -/
def execBra (cc : CondMask) (target : Imm) (s : State) : Result :=
  .next (s.branchIf (condHit cc s.stat) (absoluteAddr target))

/-- BRR (R133): relative, taken if any selected status bit is 1. -/
def execBrr (cc : CondMask) (offset : Imm) (s : State) : Result :=
  .next (s.branchIf (condHit cc s.stat) (s.relativeTarget offset))

/-- BNE (R134): absolute, taken if no selected status bit is 1 (`90_conflicts.md` C2). -/
def execBne (cc : CondMask) (target : Imm) (s : State) : Result :=
  .next (s.branchIf (!condHit cc s.stat) (absoluteAddr target))

/-- BNR (R135): relative, taken if no selected status bit is 1 (C2). -/
def execBnr (cc : CondMask) (offset : Imm) (s : State) : Result :=
  .next (s.branchIf (!condHit cc s.stat) (s.relativeTarget offset))

end Sys2Proof.Machine
end

