-- ==== Sys2Proof/Machine/LoadStore.lean ====
section
/-! DEFINITION. The four loads, the four stores and SWP (`42_load_store_swap.md`). All registers are read from `s`,
before any write (R151, UNVERIFIED, unsafe: log 16). None writes STAT, and none changes the PC (R153). -/

namespace Sys2Proof.Machine

/-! ### Loads -/

/-- LDX (R142). -/
def execLdx (rd rs : RegNum) (imm : Imm) (s : State) : Result :=
  andThen (s.loadWord (s.indexedAddr rs imm)) fun w => .next (s.writeReg rd w)

/-- LDA (R143): the Rs field is not read. -/
def execLda (rd : RegNum) (imm : Imm) (s : State) : Result :=
  andThen (s.loadWord (absoluteAddr imm)) fun w => .next (s.writeReg rd w)

/-- LDP (R144): the address is the new base's low half. -/
def execLdp (rd rs : RegNum) (imm : Imm) (s : State) : Result :=
  andThen (s.loadWord (s.indexedAddr rs imm)) fun w => .next (s.writeLoadedAndBase rd rs w (s.baseSum rs imm))

/-- LDR (R145): the address is the old base's low half. -/
def execLdr (rd rs : RegNum) (imm : Imm) (s : State) : Result :=
  andThen (s.loadWord (s.registerAddr rs)) fun w => .next (s.writeLoadedAndBase rd rs w (s.baseSum rs imm))

/-! ### Stores -/

/-- STX (R146). -/
def execStx (rd rs : RegNum) (imm : Imm) (s : State) : Result :=
  s.storeWord (s.indexedAddr rs imm) (s.readReg rd)

/-- STA (R147): the Rs field is not read. -/
def execSta (rd : RegNum) (imm : Imm) (s : State) : Result :=
  s.storeWord (absoluteAddr imm) (s.readReg rd)

/-- STP (R148): with Rd = Rs the old base is stored (R151). -/
def execStp (rd rs : RegNum) (imm : Imm) (s : State) : Result :=
  andThen (s.storeWord (s.indexedAddr rs imm) (s.readReg rd)) fun t => .next (t.writeReg rs (s.baseSum rs imm))

/-- STR (R149): with Rd = Rs the old base is stored at the old base's address (R151). -/
def execStr (rd rs : RegNum) (imm : Imm) (s : State) : Result :=
  andThen (s.storeWord (s.registerAddr rs) (s.readReg rd)) fun t => .next (t.writeReg rs (s.baseSum rs imm))

/-! ### Swap -/

/-- SWP (R152): both right-hand sides are the old values; a field that is R0 clears the other register (`10_state.md`
R21). -/
def execSwp (rd rs : RegNum) (s : State) : Result :=
  .next ((s.writeReg rs (s.readReg rd)).writeReg rd (s.readReg rs))

end Sys2Proof.Machine
end

