-- ==== Sys2Proof/Machine/System.lean ====
section
/-! DEFINITION. NOP and HLT (`43_nop_hlt.md`). The machine has no other instruction that acts on it as a whole
(R163). -/

namespace Sys2Proof.Machine

/-- NOP (R160): "None." -/
def execNop (s : State) : Result := .next s

/-- HLT (R161): "Execution stops." The PC stays at the HLT's address plus 1 (D19, UNVERIFIED, unsafe: log 18). -/
def execHlt (s : State) : Result := .next s.halt

end Sys2Proof.Machine
end

