-- ==== Sys2Proof/Syntax.lean ====
section
/-! DEFINITION. The 26 instructions of `30_encoding.md` R71, in the table's order, with the operands each one
uses (a field that R74 calls unused is no operand). -/

namespace Sys2Proof

/-- One constructor per row of the instruction table (R71). -/
inductive Instr where
  /-- NOP (`43_nop_hlt.md` R160). -/
  | nop
  /-- ADI Rd,Rs,imm (`40_alu.md` R105). -/
  | adi (rd rs : RegNum) (imm : Imm)
  /-- ADD Rd,Rs,Rt (R106). -/
  | add (rd rs rt : RegNum)
  /-- SUB Rd,Rs,Rt (R107). -/
  | sub (rd rs rt : RegNum)
  /-- NOT Rd,Rs (R108). -/
  | not (rd rs : RegNum)
  /-- OR Rd,Rs,Rt (R109). -/
  | or (rd rs rt : RegNum)
  /-- AND Rd,Rs,Rt (R110). -/
  | and (rd rs rt : RegNum)
  /-- XOR Rd,Rs,Rt (R111). -/
  | xor (rd rs rt : RegNum)
  /-- RTR Rd,Rs,Rt: rotate right (R112). -/
  | rtr (rd rs rt : RegNum)
  /-- RTL Rd,Rs,Rt: rotate left (R113). -/
  | rtl (rd rs rt : RegNum)
  /-- SHR Rd,Rs,Rt: shift right (R114). -/
  | shr (rd rs rt : RegNum)
  /-- SHL Rd,Rs,Rt: shift left (R115). -/
  | shl (rd rs rt : RegNum)
  /-- BRA CC,target (`41_branch.md` R132). -/
  | bra (cc : CondMask) (target : Imm)
  /-- BRR CC,offset (R133). -/
  | brr (cc : CondMask) (offset : Imm)
  /-- BNE CC,target (R134). -/
  | bne (cc : CondMask) (target : Imm)
  /-- BNR CC,offset (R135). -/
  | bnr (cc : CondMask) (offset : Imm)
  /-- LDX Rd,Rs,imm: load indexed (`42_load_store_swap.md` R142). -/
  | ldx (rd rs : RegNum) (imm : Imm)
  /-- LDA Rd,imm: load absolute (R143). -/
  | lda (rd : RegNum) (imm : Imm)
  /-- LDP Rd,Rs,imm: load with pre-modified base (R144). -/
  | ldp (rd rs : RegNum) (imm : Imm)
  /-- LDR Rd,Rs,imm: load with post-modified base (R145). -/
  | ldr (rd rs : RegNum) (imm : Imm)
  /-- STX Rd,Rs,imm: store indexed (R146). -/
  | stx (rd rs : RegNum) (imm : Imm)
  /-- STA Rd,imm: store absolute (R147). -/
  | sta (rd : RegNum) (imm : Imm)
  /-- STP Rd,Rs,imm: store with pre-modified base (R148). -/
  | stp (rd rs : RegNum) (imm : Imm)
  /-- STR Rd,Rs,imm: store with post-modified base (R149). -/
  | str (rd rs : RegNum) (imm : Imm)
  /-- SWP Rd,Rs: swap two registers (R152). -/
  | swp (rd rs : RegNum)
  /-- HLT (`43_nop_hlt.md` R161). -/
  | hlt
deriving DecidableEq, Repr

/-- The three instruction formats, the values of the source's column "Format" (R61). -/
inductive Format where
  | one
  | two
  | three
deriving DecidableEq, Repr

/-- The format of each instruction (R61; R63, R64, R65, R71). -/
def Instr.format : Instr → Format
  | .add _ _ _ | .sub _ _ _ | .not _ _ | .or _ _ _ | .and _ _ _ | .xor _ _ _ => .one
  | .rtr _ _ _ | .rtl _ _ _ | .shr _ _ _ | .shl _ _ _ => .one
  | .adi _ _ _ | .ldx _ _ _ | .lda _ _ | .ldp _ _ _ | .ldr _ _ _ => .two
  | .stx _ _ _ | .sta _ _ | .stp _ _ _ | .str _ _ _ | .swp _ _ => .two
  | .bra _ _ | .brr _ _ | .bne _ _ | .bnr _ _ | .nop | .hlt => .three

/-- The register numbers that an instruction's word names and the instruction uses (`10_state.md` R22, R74). -/
def Instr.named : Instr → List RegNum
  | .nop | .hlt | .bra _ _ | .brr _ _ | .bne _ _ | .bnr _ _ => []
  | .add rd rs rt | .sub rd rs rt | .or rd rs rt | .and rd rs rt | .xor rd rs rt => [rd, rs, rt]
  | .rtr rd rs rt | .rtl rd rs rt | .shr rd rs rt | .shl rd rs rt => [rd, rs, rt]
  | .not rd rs | .swp rd rs | .adi rd rs _ => [rd, rs]
  | .ldx rd rs _ | .ldp rd rs _ | .ldr rd rs _ => [rd, rs]
  | .stx rd rs _ | .stp rd rs _ | .str rd rs _ => [rd, rs]
  | .lda rd _ | .sta rd _ => [rd]

end Sys2Proof
end

