-- ==== Sys2Proof/Machine/Dispatch.lean ====
section
/-! DEFINITION. Every instruction's meaning, by name. -/

namespace Sys2Proof.Machine

def exec (i : Instr) (s : State) : Host.Outcome State Fault Refusal :=
  match i with
  | .nop => Sys2Proof.Machine.execNop s
  | .adi rd rs imm => Sys2Proof.Machine.execAdi rd rs imm s
  | .add rd rs rt => Sys2Proof.Machine.execAdd rd rs rt s
  | .sub rd rs rt => Sys2Proof.Machine.execSub rd rs rt s
  | .not rd rs => Sys2Proof.Machine.execNot rd rs s
  | .or rd rs rt => Sys2Proof.Machine.execOr rd rs rt s
  | .and rd rs rt => Sys2Proof.Machine.execAnd rd rs rt s
  | .xor rd rs rt => Sys2Proof.Machine.execXor rd rs rt s
  | .rtr rd rs rt => Sys2Proof.Machine.execRtr rd rs rt s
  | .rtl rd rs rt => Sys2Proof.Machine.execRtl rd rs rt s
  | .shr rd rs rt => Sys2Proof.Machine.execShr rd rs rt s
  | .shl rd rs rt => Sys2Proof.Machine.execShl rd rs rt s
  | .bra cc target => Sys2Proof.Machine.execBra cc target s
  | .brr cc offset => Sys2Proof.Machine.execBrr cc offset s
  | .bne cc target => Sys2Proof.Machine.execBne cc target s
  | .bnr cc offset => Sys2Proof.Machine.execBnr cc offset s
  | .ldx rd rs imm => Sys2Proof.Machine.execLdx rd rs imm s
  | .lda rd imm => Sys2Proof.Machine.execLda rd imm s
  | .ldp rd rs imm => Sys2Proof.Machine.execLdp rd rs imm s
  | .ldr rd rs imm => Sys2Proof.Machine.execLdr rd rs imm s
  | .stx rd rs imm => Sys2Proof.Machine.execStx rd rs imm s
  | .sta rd imm => Sys2Proof.Machine.execSta rd imm s
  | .stp rd rs imm => Sys2Proof.Machine.execStp rd rs imm s
  | .str rd rs imm => Sys2Proof.Machine.execStr rd rs imm s
  | .swp rd rs => Sys2Proof.Machine.execSwp rd rs s
  | .hlt => Sys2Proof.Machine.execHlt s

end Sys2Proof.Machine
end

