-- ==== Sys2Proof/WellFormed.lean ====
section
/-! DEFINITION. Which instructions a machine with the parameters of a `Config` has. The widths of the operand
types already hold every field to its range (`30_encoding.md` R62), and every immediate, CC value and pair of
registers is legal (R71, `20_memory.md` R41), so one check is left: a register number names one of the `NREGS`
registers (`92_eei_decisions.md` D2: "a smaller file would make some register numbers invalid"). With the
spec's `NREGS` = 16 and 4-bit fields every instruction passes. -/

namespace Sys2Proof

/-- Register number `r` names a register of a machine with `c.nregs` registers (D2). -/
def regExists (c : Config) (r : RegNum) : Bool := decide (r.toNat < c.nregs)

/-- Every register that the instruction uses exists (D2). -/
def Instr.wellFormed (c : Config) (i : Instr) : Bool := i.named.all fun r => regExists c r

end Sys2Proof
end

