-- ==== Sys2Proof/Decode.lean ====
section
/-! DEFINITION. The decoder and the encoder, from the field layout of `30_encoding.md` R62, the decode tree of
R70, the undefined words of R73 and the unused fields of R74. Every position and width is read from the one table
`layout` (`Machine/Layout.lean`; the spec's own decision D1, UNVERIFIED, unsafe: log 3). -/

namespace Sys2Proof

/-! ### Taking a word apart -/

/-- The bits of the word in a field's place (R62). -/
def BitField.get (f : BitField) (w : InstrWord) : BitVec f.width := w.extractLsb' f.lo f.width

/-- The opcode field (R62). -/
def opcodeOf (w : InstrWord) : BitVec 4 := layout.opcode.get w
/-- The MM field, which in a branch is the CC field (R62). -/
def mmOf (w : InstrWord) : BitVec 4 := layout.mm.get w
/-- The Rd field (R62). -/
def rdOf (w : InstrWord) : RegNum := layout.rd.get w
/-- The Rs field (R62). -/
def rsOf (w : InstrWord) : RegNum := layout.rs.get w
/-- The Rt field (R62). -/
def rtOf (w : InstrWord) : RegNum := layout.rt.get w
/-- The funct field (R62). -/
def functOf (w : InstrWord) : BitVec 4 := layout.funct.get w
/-- The immediate field: contiguous bits, not scaled (R62, R67). -/
def immOf (w : InstrWord) : Imm := layout.imm.get w

/-- Why a word is rejected (R73, R74). -/
inductive DecodeError where
  /-- The opcode is one of 1001 to 1110 (R73, first row). -/
  | undefinedOpcode
  /-- The MM value is not one the opcode has (R73, second, fourth and fifth rows). -/
  | undefinedMM
  /-- The funct value is not one of the ten (R73, third row). -/
  | undefinedFunct
  /-- An unused field is not zero and `STRICT_UNUSED_BITS` is set (R74). -/
  | nonzeroUnusedBits
deriving DecidableEq, Repr

/-- Opcode 1000 with MM 0000: the ten Format 1 operations, told apart by funct (R70, R72). -/
def decodeFunct (w : InstrWord) : Except DecodeError Instr :=
  let f := functOf w
  if f = 0b0001#4 then .ok (.add (rdOf w) (rsOf w) (rtOf w))
  else if f = 0b0010#4 then .ok (.sub (rdOf w) (rsOf w) (rtOf w))
  else if f = 0b0100#4 then .ok (.not (rdOf w) (rsOf w))
  else if f = 0b0101#4 then .ok (.or (rdOf w) (rsOf w) (rtOf w))
  else if f = 0b0110#4 then .ok (.and (rdOf w) (rsOf w) (rtOf w))
  else if f = 0b0111#4 then .ok (.xor (rdOf w) (rsOf w) (rtOf w))
  else if f = 0b1000#4 then .ok (.rtr (rdOf w) (rsOf w) (rtOf w))
  else if f = 0b1001#4 then .ok (.rtl (rdOf w) (rsOf w) (rtOf w))
  else if f = 0b1010#4 then .ok (.shr (rdOf w) (rsOf w) (rtOf w))
  else if f = 0b1011#4 then .ok (.shl (rdOf w) (rsOf w) (rtOf w))
  else .error .undefinedFunct

/-- Opcode 1000: ADI or a Format 1 operation, told apart by MM (R70, R72). -/
def decodeAlu (w : InstrWord) : Except DecodeError Instr :=
  if mmOf w = 0b1000#4 then .ok (.adi (rdOf w) (rsOf w) (immOf w))
  else if mmOf w = 0b0000#4 then decodeFunct w
  else .error .undefinedMM

/-- Opcode 0001: the four loads (R70). -/
def decodeLoad (w : InstrWord) : Except DecodeError Instr :=
  if mmOf w = 0b0000#4 then .ok (.lda (rdOf w) (immOf w))
  else if mmOf w = 0b0001#4 then .ok (.ldr (rdOf w) (rsOf w) (immOf w))
  else if mmOf w = 0b1000#4 then .ok (.ldx (rdOf w) (rsOf w) (immOf w))
  else if mmOf w = 0b1001#4 then .ok (.ldp (rdOf w) (rsOf w) (immOf w))
  else .error .undefinedMM

/-- Opcode 0010: the four stores (R70). -/
def decodeStore (w : InstrWord) : Except DecodeError Instr :=
  if mmOf w = 0b0000#4 then .ok (.sta (rdOf w) (immOf w))
  else if mmOf w = 0b0001#4 then .ok (.str (rdOf w) (rsOf w) (immOf w))
  else if mmOf w = 0b1000#4 then .ok (.stx (rdOf w) (rsOf w) (immOf w))
  else if mmOf w = 0b1001#4 then .ok (.stp (rdOf w) (rsOf w) (immOf w))
  else .error .undefinedMM

/-- The decode tree of R70: which of the 26 patterns the word has. -/
def decodePattern (w : InstrWord) : Except DecodeError Instr :=
  let op := opcodeOf w
  if op = 0b0000#4 then .ok .nop
  else if op = 0b0001#4 then decodeLoad w
  else if op = 0b0010#4 then decodeStore w
  else if op = 0b0011#4 then .ok (.swp (rdOf w) (rsOf w))
  else if op = 0b0100#4 then .ok (.bra (mmOf w) (immOf w))
  else if op = 0b0101#4 then .ok (.brr (mmOf w) (immOf w))
  else if op = 0b0110#4 then .ok (.bne (mmOf w) (immOf w))
  else if op = 0b0111#4 then .ok (.bnr (mmOf w) (immOf w))
  else if op = 0b1000#4 then decodeAlu w
  else if op = 0b1111#4 then .ok .hlt
  else .error .undefinedOpcode

/-! ### Unused bits -/

/-- The fields of a word of each format: Format 1 names Rd, Rs, Rt and has a funct, Format 2 names Rd, Rs and an
immediate and has an MM, Format 3 names no register and has a CC and a target or offset (R61; R63, R64, R65). -/
def Format.fields : Format → List BitField
  | .one => [layout.opcode, layout.mm, layout.rd, layout.rs, layout.rt, layout.funct]
  | .two => [layout.opcode, layout.mm, layout.rd, layout.rs, layout.imm]
  | .three => [layout.opcode, layout.mm, layout.imm]

/-- The fields of its format that an instruction has no use for (R63, R64, R65, R74). -/
def Instr.idleFields : Instr → List BitField
  | .not _ _ => [layout.rt]
  | .lda _ _ | .sta _ _ => [layout.rs]
  | .swp _ _ | .nop | .hlt => [layout.mm, layout.imm]
  | .adi _ _ _ | .add _ _ _ | .sub _ _ _ | .or _ _ _ | .and _ _ _ | .xor _ _ _ | .rtr _ _ _ | .rtl _ _ _
  | .shr _ _ _ | .shl _ _ _ | .bra _ _ | .brr _ _ | .bne _ _ | .bnr _ _ | .ldx _ _ _ | .ldp _ _ _ | .ldr _ _ _
  | .stx _ _ _ | .stp _ _ _ | .str _ _ _ => []

/-- The fields that an instruction uses. -/
def Instr.fields (i : Instr) : List BitField := i.format.fields.filter fun f => !i.idleFields.contains f

/-- Ones in a field's place, zeros elsewhere. -/
def BitField.mask (f : BitField) : InstrWord := BitVec.ofNat layout.ilen ((2 ^ f.width - 1) * 2 ^ f.lo)

/-- The bits of the word that the instruction has no use for: those outside its fields (R74). -/
def Instr.unusedBits (i : Instr) : InstrWord := ~~~(i.fields.map BitField.mask).foldr (· ||| ·) 0

/-- The decoder: the pattern of R70, and under `STRICT_UNUSED_BITS` a rejection of a word with a nonzero unused
field (R74; D3, log 8). -/
def decode (w : InstrWord) : Except DecodeError Instr :=
  match decodePattern w with
  | .error e => .error e
  | .ok i =>
    if Machine.settings.strictUnusedBits && (w &&& i.unusedBits != 0) then .error .nonzeroUnusedBits
    else .ok i

/-! ### Putting a word together -/

/-- A field's value at its place in an otherwise zero word. -/
def place (f : BitField) (v : BitVec f.width) : InstrWord := v.setWidth layout.ilen <<< f.lo

/-- A Format 1 word, of opcode 1000 and MM 0000: registers and a funct (R61, R63). -/
def format1 (funct : BitVec 4) (rd rs rt : RegNum) : InstrWord :=
  place layout.opcode 0b1000#4 ||| place layout.rd rd ||| place layout.rs rs ||| place layout.rt rt |||
    place layout.funct funct

/-- A Format 2 word: an MM, two registers and an immediate (R61, R64). -/
def format2 (op mm : BitVec 4) (rd rs : RegNum) (imm : Imm) : InstrWord :=
  place layout.opcode op ||| place layout.mm mm ||| place layout.rd rd ||| place layout.rs rs ||| place layout.imm imm

/-- A Format 3 word: a CC and a target or offset, no register (R61, R65). -/
def format3 (op : BitVec 4) (cc : CondMask) (imm : Imm) : InstrWord :=
  place layout.opcode op ||| place layout.mm cc ||| place layout.imm imm

/-- The canonical word of an instruction: its opcode, MM and funct values from R71, its operands in their
fields, zeros in the unused fields (R74). -/
def encode : Instr → InstrWord
  | .nop => format3 0b0000#4 0#4 0#16
  | .adi rd rs imm => format2 0b1000#4 0b1000#4 rd rs imm
  | .add rd rs rt => format1 0b0001#4 rd rs rt
  | .sub rd rs rt => format1 0b0010#4 rd rs rt
  | .not rd rs => format1 0b0100#4 rd rs regZero
  | .or rd rs rt => format1 0b0101#4 rd rs rt
  | .and rd rs rt => format1 0b0110#4 rd rs rt
  | .xor rd rs rt => format1 0b0111#4 rd rs rt
  | .rtr rd rs rt => format1 0b1000#4 rd rs rt
  | .rtl rd rs rt => format1 0b1001#4 rd rs rt
  | .shr rd rs rt => format1 0b1010#4 rd rs rt
  | .shl rd rs rt => format1 0b1011#4 rd rs rt
  | .bra cc target => format3 0b0100#4 cc target
  | .brr cc offset => format3 0b0101#4 cc offset
  | .bne cc target => format3 0b0110#4 cc target
  | .bnr cc offset => format3 0b0111#4 cc offset
  | .ldx rd rs imm => format2 0b0001#4 0b1000#4 rd rs imm
  | .lda rd imm => format2 0b0001#4 0b0000#4 rd regZero imm
  | .ldp rd rs imm => format2 0b0001#4 0b1001#4 rd rs imm
  | .ldr rd rs imm => format2 0b0001#4 0b0001#4 rd rs imm
  | .stx rd rs imm => format2 0b0010#4 0b1000#4 rd rs imm
  | .sta rd imm => format2 0b0010#4 0b0000#4 rd regZero imm
  | .stp rd rs imm => format2 0b0010#4 0b1001#4 rd rs imm
  | .str rd rs imm => format2 0b0010#4 0b0001#4 rd rs imm
  | .swp rd rs => format2 0b0011#4 0b0000#4 rd rs 0#16
  | .hlt => format3 0b1111#4 0#4 0#16

/-! ### The host's view of a word -/

/-- The instruction word whose low `nbits` bits are those of `w`, every bit above them zero. An instruction is
one word (R60), so bit 0 of the host's numbering is bit 0 of the word (R5). -/
def tableWord (nbits w : Nat) : InstrWord := BitVec.ofNat layout.ilen (w % 2 ^ nbits)

/-- The instruction that the decoder reads from the word `tableWord nbits w`; none where it rejects it. -/
def decodeTableWord (nbits w : Nat) : Option Instr := (decode (tableWord nbits w)).toOption

end Sys2Proof
end

