-- ==== Sys2Proof/Machine/Fetch.lean ====
section
/-! DEFINITION. From the PC to a decoded instruction (`10_state.md` R35), in the order of checks of
`60_exceptions.md` R173, and the placing of a word where the next step fetches it. -/

namespace Sys2Proof.Machine

/-- What the machine makes of a fetched word: its instruction, or the stop that the word causes. -/
def State.decodeFetched (s : State) (w : InstrWord) : Host.Outcome Instr Fault Refusal :=
  match decode w with
  | .error .nonzeroUnusedBits => .refused (.nonzeroUnusedBits w s.pc)
  | .error _ => raiseFault (.illegalInstruction w s.pc)
  | .ok i => if i.wellFormed settings then .next i else .refused (.noSuchRegister w s.pc)

/-- Fetch and decode at the PC, before the increment. -/
def State.fetchInstr (s : State) : Host.Outcome Instr Fault Refusal :=
  andThen s.fetchWord s.decodeFetched

/-- `s` with the word placed where the next step fetches, and running, which the fetch needs. -/
def State.placeWord (s : State) (w : InstrWord) : State := { s.putInstr s.pc w with run := .running }

end Sys2Proof.Machine
end

