-- ==== Sys2Proof/Machine/Cycle.lean ====
section
/-! DEFINITION. The instruction cycle (`10_state.md` R35). -/

namespace Sys2Proof.Machine

/-- Fetch, increment, decode, execute (R35). A halted machine fetches nothing and changes no state (R34): its cycle
leaves it as it is (DESIGN CHOICE, safe: log 18). -/
def State.cycle (s : State) : Result :=
  match s.run with
  | .halted => .next s
  | .running => andThen s.fetchInstr fun i => exec i s.advance

end Sys2Proof.Machine
end

