-- ==== Sys2Proof/Machine/Step.lean ====
section
/-! DEFINITION. One step of the machine. -/

namespace Sys2Proof.Machine

/-- One step is one instruction cycle (`10_state.md` R35). -/
def step (s : State) : Host.Outcome State Fault Refusal := s.cycle

/-- `s` with the instruction whose low `nbits` bits are those of `w` stored where `step` fetches next (log 21). -/
def State.withFetchWord (s : State) (nbits w : Nat) : State := s.placeWord (tableWord nbits w)

end Sys2Proof.Machine
end

