-- ==== Sys2Proof/Machine/Assembler.lean ====
section
/-! DEFINITION. The assembler's side of `30_encoding.md`: the seven pseudo-instructions, each another spelling of
one real instruction (R78 to R84; the source defines no other, R85), and the text of an instruction (R77). The
machine never uses this file. -/

namespace Sys2Proof

/-! ### Pseudo-instructions -/

/-- `CLR Rd` is `ADD Rd,R0,R0` (R78). -/
def Instr.clr (rd : RegNum) : Instr := .add rd regZero regZero
/-- `LRI Rd,imm` is `ADI Rd,R0,imm` (R79). -/
def Instr.lri (rd : RegNum) (imm : Imm) : Instr := .adi rd regZero imm
/-- `INC Rd` is `ADI Rd,Rd,0x0001` (R80). -/
def Instr.inc (rd : RegNum) : Instr := .adi rd rd 0x0001#16
/-- `DEC Rd` is `ADI Rd,Rd,0xFFFF` (R81). -/
def Instr.dec (rd : RegNum) : Instr := .adi rd rd 0xFFFF#16
/-- `STI Rd,Rs` is `STX Rd,Rs,0x0000` (R82). -/
def Instr.sti (rd rs : RegNum) : Instr := .stx rd rs 0x0000#16
/-- `LDI Rd,Rs` is `LDX Rd,Rs,0x0000` (R83). -/
def Instr.ldi (rd rs : RegNum) : Instr := .ldx rd rs 0x0000#16
/-- `NEG Rd` is `SUB Rd,R0,Rd` (R84). -/
def Instr.neg (rd : RegNum) : Instr := .sub rd regZero rd

/-! ### Text (R77; D21: the forms the source does not show are the spec's own choice) -/

/-- A digit of a number below 16, capitals above 9. -/
def digitChar (n : Nat) : Char := Char.ofNat (if n < 10 then 48 + n else 55 + n)

/-- `R` and the decimal number. -/
def regText (r : RegNum) : List Char :=
  if r.toNat < 10 then ['R', digitChar r.toNat] else ['R', digitChar (r.toNat / 10), digitChar (r.toNat % 10)]

/-- `0x` and four hexadecimal digits. -/
def immText (v : Imm) : List Char :=
  ['0', 'x', digitChar (v.extractLsb' 12 4).toNat, digitChar (v.extractLsb' 8 4).toNat,
    digitChar (v.extractLsb' 4 4).toNat, digitChar (v.extractLsb' 0 4).toNat]

/-- Four binary digits in the order C V N Z. -/
def condText (cc : CondMask) : List Char :=
  [3, 2, 1, 0].map fun k => if cc.getLsbD k then '1' else '0'

/-- The mnemonic, a space, and the operands with commas and no space. -/
def asmLine (mnemonic : List Char) (operands : List (List Char)) : List Char :=
  match operands with
  | [] => mnemonic
  | o :: os => mnemonic ++ [' '] ++ o ++ os.flatMap fun x => ',' :: x

/-- The text of an instruction, as its characters (R77). -/
def Instr.text : Instr → List Char
  | .nop => asmLine ['N', 'O', 'P'] []
  | .adi rd rs imm => asmLine ['A', 'D', 'I'] [regText rd, regText rs, immText imm]
  | .add rd rs rt => asmLine ['A', 'D', 'D'] [regText rd, regText rs, regText rt]
  | .sub rd rs rt => asmLine ['S', 'U', 'B'] [regText rd, regText rs, regText rt]
  | .not rd rs => asmLine ['N', 'O', 'T'] [regText rd, regText rs]
  | .or rd rs rt => asmLine ['O', 'R'] [regText rd, regText rs, regText rt]
  | .and rd rs rt => asmLine ['A', 'N', 'D'] [regText rd, regText rs, regText rt]
  | .xor rd rs rt => asmLine ['X', 'O', 'R'] [regText rd, regText rs, regText rt]
  | .rtr rd rs rt => asmLine ['R', 'T', 'R'] [regText rd, regText rs, regText rt]
  | .rtl rd rs rt => asmLine ['R', 'T', 'L'] [regText rd, regText rs, regText rt]
  | .shr rd rs rt => asmLine ['S', 'H', 'R'] [regText rd, regText rs, regText rt]
  | .shl rd rs rt => asmLine ['S', 'H', 'L'] [regText rd, regText rs, regText rt]
  | .bra cc target => asmLine ['B', 'R', 'A'] [condText cc, immText target]
  | .brr cc offset => asmLine ['B', 'R', 'R'] [condText cc, immText offset]
  | .bne cc target => asmLine ['B', 'N', 'E'] [condText cc, immText target]
  | .bnr cc offset => asmLine ['B', 'N', 'R'] [condText cc, immText offset]
  | .ldx rd rs imm => asmLine ['L', 'D', 'X'] [regText rd, regText rs, immText imm]
  | .lda rd imm => asmLine ['L', 'D', 'A'] [regText rd, immText imm]
  | .ldp rd rs imm => asmLine ['L', 'D', 'P'] [regText rd, regText rs, immText imm]
  | .ldr rd rs imm => asmLine ['L', 'D', 'R'] [regText rd, regText rs, immText imm]
  | .stx rd rs imm => asmLine ['S', 'T', 'X'] [regText rd, regText rs, immText imm]
  | .sta rd imm => asmLine ['S', 'T', 'A'] [regText rd, immText imm]
  | .stp rd rs imm => asmLine ['S', 'T', 'P'] [regText rd, regText rs, immText imm]
  | .str rd rs imm => asmLine ['S', 'T', 'R'] [regText rd, regText rs, immText imm]
  | .swp rd rs => asmLine ['S', 'W', 'P'] [regText rd, regText rs]
  | .hlt => asmLine ['H', 'L', 'T'] []

end Sys2Proof
end

