-- ==== Sys2Proof/Safety.lean ====
section
/-! DEFINITION. The terms in which claims speak: the spec's tables of who reads and writes what, frames, and the
exact readings of the status bits. None of it is used by the machine. -/

namespace Sys2Proof

/-! ### The spec's tables -/

/-- The registers an instruction reads: the first column of `10_state.md` R22. -/
def Instr.reads : Instr → List RegNum
  | .nop | .hlt | .bra _ _ | .brr _ _ | .bne _ _ | .bnr _ _ | .lda _ _ => []
  | .adi _ rs _ | .not _ rs | .ldx _ rs _ | .ldp _ rs _ | .ldr _ rs _ => [rs]
  | .add _ rs rt | .sub _ rs rt | .or _ rs rt | .and _ rs rt | .xor _ rs rt => [rs, rt]
  | .rtr _ rs rt | .rtl _ rs rt | .shr _ rs rt | .shl _ rs rt => [rs, rt]
  | .stx rd rs _ | .stp rd rs _ | .str rd rs _ | .swp rd rs => [rd, rs]
  | .sta rd _ => [rd]

/-- The registers an instruction writes: the second column of R22. -/
def Instr.writes : Instr → List RegNum
  | .nop | .hlt | .bra _ _ | .brr _ _ | .bne _ _ | .bnr _ _ | .stx _ _ _ | .sta _ _ => []
  | .adi rd _ _ | .not rd _ | .ldx rd _ _ | .lda rd _ => [rd]
  | .add rd _ _ | .sub rd _ _ | .or rd _ _ | .and rd _ _ | .xor rd _ _ => [rd]
  | .rtr rd _ _ | .rtl rd _ _ | .shr rd _ _ | .shl rd _ _ => [rd]
  | .ldp rd rs _ | .ldr rd rs _ | .swp rd rs => [rd, rs]
  | .stp _ rs _ | .str _ rs _ => [rs]

/-- The writers of STAT (R28): ADD and SUB, and ADI under `ADI_WRITES_STATUS`. -/
def Instr.writesStatus : Instr → Bool
  | .add _ _ _ | .sub _ _ _ => true
  | .adi _ _ _ => Machine.settings.adiWritesStatus
  | _ => false

/-- The readers of STAT (R28): the branches, but for CC = 0000, where "STAT need not have a value"
(`41_branch.md` R130). -/
def Instr.readsStatus : Instr → Bool
  | .bra cc _ | .brr cc _ | .bne cc _ | .bnr cc _ => cc != 0#4
  | _ => false

/-- The undefined words: the five rows of `30_encoding.md` R73, on the fields of R62. -/
def UndefinedWord (w : InstrWord) : Prop :=
  let op := w.extractLsb' 28 4
  let mm := w.extractLsb' 24 4
  let funct := w.extractLsb' 0 4
  op ∈ [0b1001#4, 0b1010#4, 0b1011#4, 0b1100#4, 0b1101#4, 0b1110#4] ∨
  (op = 0b1000#4 ∧ mm ∉ [0b0000#4, 0b1000#4]) ∨
  (op = 0b1000#4 ∧ mm = 0b0000#4 ∧ funct ∈ [0b0000#4, 0b0011#4, 0b1100#4, 0b1101#4, 0b1110#4, 0b1111#4]) ∨
  (op = 0b0001#4 ∧ mm ∉ [0b0000#4, 0b0001#4, 0b1000#4, 0b1001#4]) ∨
  (op = 0b0010#4 ∧ mm ∉ [0b0000#4, 0b0001#4, 0b1000#4, 0b1001#4])

namespace Machine

/-- The address a load reads, with the functions its meaning uses (`42_load_store_swap.md` R141); none for an
instruction that is no load. -/
def loadAddr (i : Instr) (s : State) : Option Addr :=
  match i with
  | .ldx _ rs imm | .ldp _ rs imm => some (s.indexedAddr rs imm)
  | .lda _ imm => some (absoluteAddr imm)
  | .ldr _ rs _ => some (s.registerAddr rs)
  | _ => none

/-- The address a store writes and the word it stores there (R141, R146 to R149); none for an instruction that is
no store. -/
def storeEffect (i : Instr) (s : State) : Option (Addr × Word) :=
  match i with
  | .stx rd rs imm | .stp rd rs imm => some (s.indexedAddr rs imm, s.readReg rd)
  | .sta rd imm => some (absoluteAddr imm, s.readReg rd)
  | .str rd rs _ => some (s.registerAddr rs, s.readReg rd)
  | _ => none

/-! ### Frames -/

/-- Every register but those of `ds` reads as before. -/
def RegsKeptBut (ds : List RegNum) (s t : State) : Prop := ∀ r, r ∉ ds → t.readReg r = s.readReg r

/-- Every word of data memory reads as before. -/
def DataKept (s t : State) : Prop := ∀ b, t.dataAt b = s.dataAt b

/-- Every word of data memory but the one at `a` reads as before. -/
def DataKeptBut (a : Addr) (s t : State) : Prop := ∀ b, b ≠ a → t.dataAt b = s.dataAt b

/-- Instruction memory, the run state and the draw counter are as before. -/
def RestKept (s t : State) : Prop := t.imem = s.imem ∧ t.run = s.run ∧ t.draws = s.draws

/-- Only registers among `ds` changed: STAT, the PC, data memory and the rest are as before. -/
def OnlyRegs (ds : List RegNum) (s t : State) : Prop :=
  RegsKeptBut ds s t ∧ t.stat = s.stat ∧ t.pc = s.pc ∧ DataKept s t ∧ RestKept s t

/-- Only registers among `ds` and STAT changed. -/
def OnlyRegsAndStat (ds : List RegNum) (s t : State) : Prop :=
  RegsKeptBut ds s t ∧ t.pc = s.pc ∧ DataKept s t ∧ RestKept s t

/-- Only registers among `ds` and the data word at `a` changed. -/
def OnlyRegsAndWord (ds : List RegNum) (a : Addr) (s t : State) : Prop :=
  RegsKeptBut ds s t ∧ t.stat = s.stat ∧ t.pc = s.pc ∧ DataKeptBut a s t ∧ RestKept s t

/-- The instructions of the list, executed one after the other from `s`, answer `u`, and none of them is a store to
`a`. -/
def RunsWithoutStoreTo (a : Addr) : List Instr → State → State → Prop
  | [], s, u => u = s
  | j :: js, s, u =>
    (storeEffect j s).map Prod.fst ≠ some a ∧ ∃ t, exec j s = .next t ∧ RunsWithoutStoreTo a js t u

/-! ### Two runs side by side -/

/-- Two states that read alike on the registers of `rs` and are equal outside the registers. -/
def AgreeOn (rs : List RegNum) (s s' : State) : Prop :=
  (∀ r, r ∈ rs → s.readReg r = s'.readReg r) ∧ s.pc = s'.pc ∧ s.stat = s'.stat ∧ s.imem = s'.imem ∧
    s.dmem = s'.dmem ∧ s.run = s'.run ∧ s.draws = s'.draws

/-- Two answers of one kind: next states related by `R`, or the same stop. -/
def SameAnswer (R : State → State → Prop) : Result → Result → Prop
  | .next t, .next t' => R t t'
  | .fault f, .fault f' => f = f'
  | .refused r, .refused r' => r = r'
  | _, _ => False

/-! ### The status bits, read exactly -/

/-- STAT after an addition of `a` and `b`, in the "same as" readings of `40_alu.md` R101. -/
def ExactAddStatus (a b : Word) (st : Status) : Prop :=
  (st.getLsbD 3 = true ↔ 2 ^ 32 ≤ a.toNat + b.toNat) ∧
  (st.getLsbD 2 = true ↔ a.toInt + b.toInt < -2 ^ 31 ∨ 2 ^ 31 - 1 < a.toInt + b.toInt) ∧
  (st.getLsbD 1 = true ↔ a.toInt + b.toInt < 0) ∧
  (st.getLsbD 0 = true ↔ a + b = 0#32)

/-- STAT after a subtraction of `b` from `a`, in the "same as" readings of R102. -/
def ExactSubStatus (a b : Word) (st : Status) : Prop :=
  (st.getLsbD 3 = true ↔ a.toNat < b.toNat) ∧
  (st.getLsbD 2 = true ↔ a.toInt - b.toInt < -2 ^ 31 ∨ 2 ^ 31 - 1 < a.toInt - b.toInt) ∧
  (st.getLsbD 1 = true ↔ a.toInt < b.toInt) ∧
  (st.getLsbD 0 = true ↔ a = b)

/-! ### Branches -/

/-- At `s`, BRA and BRR with this CC are taken exactly if `P` holds. -/
def PositiveTakenIff (cc : CondMask) (s : State) (P : Prop) : Prop :=
  ∀ imm : Imm,
    (P → exec (.bra cc imm) s = .next (s.setPc imm) ∧ exec (.brr cc imm) s = .next (s.setPc (s.pc + imm))) ∧
    (¬P → exec (.bra cc imm) s = .next s ∧ exec (.brr cc imm) s = .next s)

/-- At `s`, BNE and BNR with this CC are taken exactly if `P` holds. -/
def NegativeTakenIff (cc : CondMask) (s : State) (P : Prop) : Prop :=
  ∀ imm : Imm,
    (P → exec (.bne cc imm) s = .next (s.setPc imm) ∧ exec (.bnr cc imm) s = .next (s.setPc (s.pc + imm))) ∧
    (¬P → exec (.bne cc imm) s = .next s ∧ exec (.bnr cc imm) s = .next s)

/-! ### The invariant -/

/-- Both memories are in their canonical form (log 6). -/
def Canonical (s : State) : Prop := s.imem.wf = true ∧ s.dmem.wf = true

end Machine

end Sys2Proof
end

