-- ==== Sys2Proof/Certificates/Slice0/Obligations.lean ====
section
/-! DEFINITION. The statements about the machine, for the provers. Each docstring names the rule of `spec/` that
the statement formalises, and the spec's own decision (D<n> of `92_eei_decisions.md`) or the log entry it rests on.
Wherever a match and a mask stand, they rest on the field layout of `30_encoding.md` R62, the spec's decision D1
(log 3). -/

open Sys2Proof Sys2Proof.Machine

/-! ## Encoding -/

/-- Decoding the encoding of an instruction gives the instruction back, for every instruction and every operand
(`30_encoding.md` R62 to R65, R70; D1, log 3). -/
def Obligations.DecodeInvertsEncode : Prop := ∀ i : Instr, decode (encode i) = .ok i

/-- Encoding what a word decodes to gives the word with zeros in the fields its instruction does not use
(`30_encoding.md` R74; D1, D3, log 3, log 8). -/
def Obligations.EncodeInvertsDecodeOnUsedFields : Prop :=
  ∀ (w : Word) (i : Instr), decode w = .ok i → encode i = w &&& ~~~i.unusedBits

/-- The 26 rows of `30_encoding.md` R71: a word with a row's match under its mask decodes to that row's instruction,
its operands being the fields of R62 (D1, log 3). -/
def Obligations.MatchAndMaskSelectTheInstruction : Prop :=
  ∀ w : Word,
    let rd := w.extractLsb' 20 4
    let rs := w.extractLsb' 16 4
    let rt := w.extractLsb' 12 4
    let cc := w.extractLsb' 24 4
    let imm := w.extractLsb' 0 16
    (w &&& 0xF0000000#32 = 0x00000000#32 → decode w = .ok .nop) ∧
    (w &&& 0xFF000000#32 = 0x88000000#32 → decode w = .ok (.adi rd rs imm)) ∧
    (w &&& 0xFF00000F#32 = 0x80000001#32 → decode w = .ok (.add rd rs rt)) ∧
    (w &&& 0xFF00000F#32 = 0x80000002#32 → decode w = .ok (.sub rd rs rt)) ∧
    (w &&& 0xFF00000F#32 = 0x80000004#32 → decode w = .ok (.not rd rs)) ∧
    (w &&& 0xFF00000F#32 = 0x80000005#32 → decode w = .ok (.or rd rs rt)) ∧
    (w &&& 0xFF00000F#32 = 0x80000006#32 → decode w = .ok (.and rd rs rt)) ∧
    (w &&& 0xFF00000F#32 = 0x80000007#32 → decode w = .ok (.xor rd rs rt)) ∧
    (w &&& 0xFF00000F#32 = 0x80000008#32 → decode w = .ok (.rtr rd rs rt)) ∧
    (w &&& 0xFF00000F#32 = 0x80000009#32 → decode w = .ok (.rtl rd rs rt)) ∧
    (w &&& 0xFF00000F#32 = 0x8000000A#32 → decode w = .ok (.shr rd rs rt)) ∧
    (w &&& 0xFF00000F#32 = 0x8000000B#32 → decode w = .ok (.shl rd rs rt)) ∧
    (w &&& 0xF0000000#32 = 0x40000000#32 → decode w = .ok (.bra cc imm)) ∧
    (w &&& 0xF0000000#32 = 0x50000000#32 → decode w = .ok (.brr cc imm)) ∧
    (w &&& 0xF0000000#32 = 0x60000000#32 → decode w = .ok (.bne cc imm)) ∧
    (w &&& 0xF0000000#32 = 0x70000000#32 → decode w = .ok (.bnr cc imm)) ∧
    (w &&& 0xFF000000#32 = 0x18000000#32 → decode w = .ok (.ldx rd rs imm)) ∧
    (w &&& 0xFF000000#32 = 0x10000000#32 → decode w = .ok (.lda rd imm)) ∧
    (w &&& 0xFF000000#32 = 0x19000000#32 → decode w = .ok (.ldp rd rs imm)) ∧
    (w &&& 0xFF000000#32 = 0x11000000#32 → decode w = .ok (.ldr rd rs imm)) ∧
    (w &&& 0xFF000000#32 = 0x28000000#32 → decode w = .ok (.stx rd rs imm)) ∧
    (w &&& 0xFF000000#32 = 0x20000000#32 → decode w = .ok (.sta rd imm)) ∧
    (w &&& 0xFF000000#32 = 0x29000000#32 → decode w = .ok (.stp rd rs imm)) ∧
    (w &&& 0xFF000000#32 = 0x21000000#32 → decode w = .ok (.str rd rs imm)) ∧
    (w &&& 0xF0000000#32 = 0x30000000#32 → decode w = .ok (.swp rd rs)) ∧
    (w &&& 0xF0000000#32 = 0xF0000000#32 → decode w = .ok .hlt)

/-- The decoder rejects exactly the words of the five rows of `30_encoding.md` R73 (D1, D4, log 9). -/
def Obligations.DecoderRejectsExactlyTheUndefinedWords : Prop :=
  ∀ w : Word, (∃ e, decode w = .error e) ↔ UndefinedWord w

/-- A running machine that fetches an undefined word stops with IllegalInstruction, naming the word and its address
(`30_encoding.md` R73, `60_exceptions.md` R171; D4, log 9). -/
def Obligations.UndefinedWordStopsTheStep : Prop :=
  ∀ (s : State) (w : Word), s.run = .running → s.instrAt s.pc = some w → UndefinedWord w →
    step s = .fault (.illegalInstruction w s.pc)

/-- An instruction "does the same whatever they hold": changing unused bits of a word does not change what it
decodes to (`30_encoding.md` R74; D3, log 8). -/
def Obligations.UnusedFieldsDoNotMatter : Prop :=
  ∀ (w u : Word) (i : Instr), decode w = .ok i → decode (w ^^^ (u &&& i.unusedBits)) = .ok i

/-- Words that the spec's examples write out decode to the instructions they stand for (`40_alu.md` R105, R106,
`41_branch.md` R133, `42_load_store_swap.md` R144, R149, R152, `43_nop_hlt.md` R161). -/
def Obligations.ExampleWordsDecode : Prop :=
  decode 0x8812FFFE#32 = .ok (.adi 1 2 0xFFFE) ∧ decode 0x80123001#32 = .ok (.add 1 2 3) ∧
  decode 0x5300FFFE#32 = .ok (.brr 0b0011 0xFFFE) ∧ decode 0x1912FFFF#32 = .ok (.ldp 1 2 0xFFFF) ∧
  decode 0x21120001#32 = .ok (.str 1 2 0x0001) ∧ decode 0x30120000#32 = .ok (.swp 1 2) ∧
  decode 0xF0000000#32 = .ok .hlt

/-! ## The machine as a whole -/

/-- A running machine whose PC addresses a word that decodes to `i` does in one step what `exec i` does with the PC
incremented, and the increment changes nothing else (`10_state.md` R35). -/
def Obligations.StepRunsTheDecodedInstruction : Prop :=
  ∀ (s : State) (w : Word) (i : Instr), s.run = .running → s.instrAt s.pc = some w → decode w = .ok i →
    step s = exec i { s with pc := s.pc + 1#16 }

/-- A fetch of a word that holds no value stops the model, naming the word (`20_memory.md` R43,
`70_reset_and_hazards.md` R191; D18, log 7). -/
def Obligations.FetchOfAnUnloadedWordStops : Prop :=
  ∀ s : State, s.run = .running → s.instrAt s.pc = none →
    step s = .fault (.readBeforeWrite (.instructionWord s.pc) s.pc)

/-- "A halted machine fetches nothing and changes no state": however many steps are taken, it stays as it is
(`10_state.md` R34; D19). That a halted machine has a step at all is the model's choice (log 18). -/
def Obligations.HaltedMachineStaysAsItIs : Prop :=
  ∀ (k : Nat) (s : State), s.run = .halted → Host.Core.run core k s = .next s

/-- HLT alone changes the run state, and it halts the machine (`10_state.md` R34, `43_nop_hlt.md` R161, R163; D19). -/
def Obligations.OnlyHltChangesTheRunState : Prop :=
  ∀ (i : Instr) (s t : State), exec i s = .next t → t.run = if i = .hlt then .halted else s.run

/-- Every step keeps both memories in their canonical form (the form is the model's choice, log 6). -/
def Obligations.EveryStepKeepsMemoriesCanonical : Prop :=
  ∀ s t : State, Canonical s → step s = .next t → Canonical t

/-- The memories are canonical after reset (log 6). -/
def Obligations.ResetMemoriesAreCanonical : Prop := Canonical State.reset

/-- Two memories in the canonical form that read alike at every address are equal (the form is the model's choice,
log 6). -/
def Obligations.CanonicalMemoriesThatReadAlikeAreEqual : Prop :=
  ∀ (n : Nat) (m m' : Memory n), m.wf = true → m'.wf = true → (∀ a : Addr, m.find a.toNat = m'.find a.toNat) → m = m'

/-- "It is loaded by the host before the run and does not change during a run": however many steps are taken,
instruction memory is as it was (`10_state.md` R31, `20_memory.md` R49; D5). -/
def Obligations.InstructionMemoryNeverChanges : Prop :=
  ∀ (k : Nat) (s t : State), Host.Core.run core k s = .next t → State.imem t = s.imem

/-- Where reset leaves the PC, the run state and the memories, into which no host has loaded anything (`10_state.md`
R36, `70_reset_and_hazards.md` R190; D18, log 19). -/
def Obligations.ResetStartsAtZeroRunning : Prop :=
  State.reset.pc = 0x0000#16 ∧ State.reset.run = .running ∧
  (∀ a, State.reset.instrAt a = none) ∧ ∀ a, State.reset.dataAt a = none

/-- THE MODEL'S CHOICE (log 1, log 2): after reset every register and STAT read zero; the spec gives them no value. -/
def Obligations.ResetRegistersAndStatReadZero : Prop :=
  (∀ r, State.reset.readReg r = 0#32) ∧ State.reset.stat = 0#4

/-- Reset starts a machine again from PC 0x0000, running, and clears neither memory (`70_reset_and_hazards.md` R190,
R192; D18); what it leaves in registers and STAT is the model's choice (log 22) and not stated here. -/
def Obligations.ResetRestartsAndKeepsMemories : Prop :=
  ∀ s : State, s.applyReset.pc = 0x0000#16 ∧ s.applyReset.run = .running ∧
    (∀ a, s.applyReset.instrAt a = s.instrAt a) ∧ ∀ a, s.applyReset.dataAt a = s.dataAt a

/-- A program of at most 65536 words that the host loads lies in instruction memory word by word from address 0x0000
on, and every word beyond its end is as before (`60_exceptions.md` R183, `70_reset_and_hazards.md` R193; D25, log
21). -/
def Obligations.LoadedProgramLiesFromZero : Prop :=
  ∀ (s : State) (ws : List InstrWord) (a : Addr), ws.length ≤ 65536 →
    (s.loadProgram ws).instrAt a = if h : a.toNat < ws.length then some ws[a.toNat] else s.instrAt a

/-- Which registers each instruction reads and writes: the table of `10_state.md` R22. Writing: no register outside
the second column changes. Reading: two states that agree on the first column's registers, and outside the registers,
give the same answer, with the same values in the second column's registers. -/
def Obligations.RegisterReadsAndWritesFollowTheTable : Prop :=
  (∀ (i : Instr) (s t : State), exec i s = .next t → RegsKeptBut i.writes s t) ∧
  ∀ (i : Instr) (s s' : State), AgreeOn i.reads s s' → SameAnswer (AgreeOn i.writes) (exec i s) (exec i s')

/-- STAT has no writers but ADD, SUB and, under `ADI_WRITES_STATUS`, ADI (`10_state.md` R28; D7, D8, log 10, log
11). -/
def Obligations.OnlyStatusWritersChangeStat : Prop :=
  ∀ (i : Instr) (s t : State), i.writesStatus = false → exec i s = .next t → t.stat = s.stat

/-- STAT has no readers but the branches whose CC is not 0000: whatever STAT holds, every other instruction gives the
same answer but for STAT itself (`10_state.md` R28, `41_branch.md` R130). -/
def Obligations.OnlyConditionalBranchesReadStat : Prop :=
  ∀ (i : Instr) (s : State) (v : Status), i.readsStatus = false →
    SameAnswer (fun t t' => t.setStat 0#4 = t'.setStat 0#4) (exec i s) (exec i (s.setStat v))

/-- Where a step leaves the PC: the table of `10_state.md` R25, `s.pc` being the instruction's address (D19 for HLT,
log 18; D20 for the wrap, log 20). -/
def Obligations.StepLeavesThePcByTheTable : Prop :=
  ∀ (s t : State) (w : Word) (i : Instr), s.run = .running → s.instrAt s.pc = some w → decode w = .ok i →
    step s = .next t →
    t.pc = match i with
      | .bra cc target => if cc &&& s.stat ≠ 0#4 then target else s.pc + 1#16
      | .brr cc offset => if cc &&& s.stat ≠ 0#4 then s.pc + 1#16 + offset else s.pc + 1#16
      | .bne cc target => if cc &&& s.stat = 0#4 then target else s.pc + 1#16
      | .bnr cc offset => if cc &&& s.stat = 0#4 then s.pc + 1#16 + offset else s.pc + 1#16
      | _ => s.pc + 1#16

/-- "The eight load and store instructions reach it and nothing else does": an instruction that is no store leaves
every data word as it was; a store puts its word at its address and leaves every other data word as it was
(`10_state.md` R32, `20_memory.md` R42; D6). -/
def Obligations.OnlyStoresChangeDataMemory : Prop :=
  ∀ (i : Instr) (s t : State), exec i s = .next t →
    match storeEffect i s with
    | none => DataKept s t
    | some (a, v) => t.dataAt a = some v ∧ DataKeptBut a s t

/-- No instruction stops for its operand values: every one completes in every state, but for a load whose data word
holds no value, which stops naming that word and the instruction's address (`40_alu.md` R116, `60_exceptions.md` R170;
D15, D18, log 7). THE MODEL'S CHOICE: R171 also stops a read of a register or of STAT that has no value, which never
occurs here since each holds a value (log 1, log 2), and LDP and LDR with Rd = Rs other than R0, which go on with a draw
(log 15). -/
def Obligations.OnlyALoadOfAnUnwrittenWordStops : Prop :=
  ∀ (i : Instr) (s : State),
    (∃ t, exec i s = .next t) ∨
    ∃ a, loadAddr i s = some a ∧ s.dataAt a = none ∧
      exec i s = .fault (.readBeforeWrite (.dataWord a) (s.pc - 1#16))

/-- R0 reads zero and a write to it changes nothing, in every state (`10_state.md` R21; D23). -/
def Obligations.RegisterZeroReadsZeroAndDiscardsWrites : Prop :=
  ∀ (s : State) (v : Word), s.readReg 0#4 = 0#32 ∧ s.writeReg 0#4 v = s

/-! ## NOP and HLT -/

/-- NOP (`43_nop_hlt.md` R160): every word with opcode 0000 is NOP, and a NOP changes nothing but the PC, which the
fetch has moved on. -/
def Obligations.NopOnlyMovesThePc : Prop :=
  (∀ s : State, exec .nop s = .next s) ∧
  (∀ w : Word, w &&& 0xF0000000#32 = 0x00000000#32 → decode w = .ok .nop) ∧
  ∀ (s : State) (w : Word), s.run = .running → s.instrAt s.pc = some w → w &&& 0xF0000000#32 = 0x00000000#32 →
    step s = .next { s with pc := s.pc + 1#16 }

/-- HLT (`43_nop_hlt.md` R161; D19, log 18): the machine is halted and nothing else changes; in a step the PC is left
at the HLT's address plus 1. -/
def Obligations.HltHaltsAndKeepsTheRest : Prop :=
  (∀ s : State, exec .hlt s = .next { s with run := .halted }) ∧
  ∀ (s : State) (w : Word), s.run = .running → s.instrAt s.pc = some w → w &&& 0xF0000000#32 = 0xF0000000#32 →
    step s = .next { s with pc := s.pc + 1#16, run := .halted }

/-! ## Arithmetic -/

/-- ADI (`40_alu.md` R105, R101, R103; D7, D13, D27, log 10, log 14): the sum with the sign-extended immediate, and
under `ADI_WRITES_STATUS` its exact status; with Rd = R0 the sum is discarded. -/
def Obligations.AdiWritesSumAndStatus : Prop :=
  ∀ (rd rs : RegNum) (imm : Imm) (s : State), ∃ t, exec (.adi rd rs imm) s = .next t ∧
    t.readReg rd = (if rd = 0#4 then 0#32 else s.readReg rs + imm.signExtend 32) ∧
    (if settings.adiWritesStatus = true then ExactAddStatus (s.readReg rs) (imm.signExtend 32) t.stat
      else t.stat = s.stat) ∧
    OnlyRegsAndStat [rd] s t

/-- ADD (`40_alu.md` R106, R101; D13, D27, log 14): the 32-bit sum, and the exact status, also where Rd is R0. -/
def Obligations.AddWritesSumAndStatus : Prop :=
  ∀ (rd rs rt : RegNum) (s : State), ∃ t, exec (.add rd rs rt) s = .next t ∧
    t.readReg rd = (if rd = 0#4 then 0#32 else s.readReg rs + s.readReg rt) ∧
    ExactAddStatus (s.readReg rs) (s.readReg rt) t.stat ∧
    OnlyRegsAndStat [rd] s t

/-- SUB (`40_alu.md` R107, R102; D13, D22, D27, log 14): the 32-bit difference, C the borrow, N the exact sign, also
where Rd is R0. -/
def Obligations.SubWritesDifferenceAndStatus : Prop :=
  ∀ (rd rs rt : RegNum) (s : State), ∃ t, exec (.sub rd rs rt) s = .next t ∧
    t.readReg rd = (if rd = 0#4 then 0#32 else s.readReg rs - s.readReg rt) ∧
    ExactSubStatus (s.readReg rs) (s.readReg rt) t.stat ∧
    OnlyRegsAndStat [rd] s t

/-! ## Logic, rotates and shifts -/

/-- NOT (`40_alu.md` R108), encoding, result bit by bit, and frame: STAT is not written. The Rt field is ignored. -/
def Obligations.NotInvertsEveryBit : Prop :=
  (∀ w : Word, w &&& 0xFF00000F#32 = 0x80000004#32 → decode w = .ok (.not (w.extractLsb' 20 4) (w.extractLsb' 16 4))) ∧
  ∀ (rd rs : RegNum) (s : State), ∃ t, exec (.not rd rs) s = .next t ∧
    (∀ k < 32, (t.readReg rd).getLsbD k = (rd != 0#4 && !(s.readReg rs).getLsbD k)) ∧ OnlyRegs [rd] s t

/-- OR (`40_alu.md` R109), encoding, result bit by bit, and frame: STAT is not written. -/
def Obligations.OrIsBitwise : Prop :=
  (∀ w : Word, w &&& 0xFF00000F#32 = 0x80000005#32 →
    decode w = .ok (.or (w.extractLsb' 20 4) (w.extractLsb' 16 4) (w.extractLsb' 12 4))) ∧
  ∀ (rd rs rt : RegNum) (s : State), ∃ t, exec (.or rd rs rt) s = .next t ∧
    (∀ k < 32, (t.readReg rd).getLsbD k = (rd != 0#4 && ((s.readReg rs).getLsbD k || (s.readReg rt).getLsbD k))) ∧
    OnlyRegs [rd] s t

/-- AND (`40_alu.md` R110), encoding, result bit by bit, and frame: STAT is not written. -/
def Obligations.AndIsBitwise : Prop :=
  (∀ w : Word, w &&& 0xFF00000F#32 = 0x80000006#32 →
    decode w = .ok (.and (w.extractLsb' 20 4) (w.extractLsb' 16 4) (w.extractLsb' 12 4))) ∧
  ∀ (rd rs rt : RegNum) (s : State), ∃ t, exec (.and rd rs rt) s = .next t ∧
    (∀ k < 32, (t.readReg rd).getLsbD k = (rd != 0#4 && ((s.readReg rs).getLsbD k && (s.readReg rt).getLsbD k))) ∧
    OnlyRegs [rd] s t

/-- XOR (`40_alu.md` R111), encoding, result bit by bit, and frame: STAT is not written. -/
def Obligations.XorIsBitwise : Prop :=
  (∀ w : Word, w &&& 0xFF00000F#32 = 0x80000007#32 →
    decode w = .ok (.xor (w.extractLsb' 20 4) (w.extractLsb' 16 4) (w.extractLsb' 12 4))) ∧
  ∀ (rd rs rt : RegNum) (s : State), ∃ t, exec (.xor rd rs rt) s = .next t ∧
    (∀ k < 32, (t.readReg rd).getLsbD k = (rd != 0#4 && ((s.readReg rs).getLsbD k != (s.readReg rt).getLsbD k))) ∧
    OnlyRegs [rd] s t

/-- RTR and RTL (`40_alu.md` R112, R113; D11, log 13): bit k of the result is bit k + n, or k - n, of the operand,
modulo 32, n being the value of Rt modulo 32, which is exact under any reading of the count (R104). -/
def Obligations.RotatesMoveEveryBit : Prop :=
  ∀ (rd rs rt : RegNum) (s : State),
    (∃ t, exec (.rtr rd rs rt) s = .next t ∧ OnlyRegs [rd] s t ∧ ∀ k < 32,
      (t.readReg rd).getLsbD k = (rd != 0#4 && (s.readReg rs).getLsbD ((k + (s.readReg rt).toNat) % 32))) ∧
    (∃ t, exec (.rtl rd rs rt) s = .next t ∧ OnlyRegs [rd] s t ∧ ∀ k < 32,
      (t.readReg rd).getLsbD ((k + (s.readReg rt).toNat) % 32) = (rd != 0#4 && (s.readReg rs).getLsbD k))

/-- "RTL by n equals RTR by (32 - n) mod 32" (`40_alu.md` R113; D11, D12, log 12, log 13). -/
def Obligations.RotateLeftIsRotateRightByTheRest : Prop :=
  ∀ (rd rs rt rt' : RegNum) (s : State),
    (s.readReg rt').toNat % 32 = (32 - (s.readReg rt).toNat % 32) % 32 →
    exec (.rtl rd rs rt) s = exec (.rtr rd rs rt') s

/-- SHR under the default parameters (`40_alu.md` R114, R104; D11, D12, log 12): the unsigned operand divided by 2^n,
rounded down, n the low five bits of Rt. -/
def Obligations.ShrDividesByAPowerOfTwo : Prop :=
  ∀ (rd rs rt : RegNum) (s : State), ∃ t, exec (.shr rd rs rt) s = .next t ∧
    (t.readReg rd).toNat =
      (if rd = 0#4 then 0 else (s.readReg rs).toNat / 2 ^ ((s.readReg rt).extractLsb' 0 5).toNat) ∧
    OnlyRegs [rd] s t

/-- SHL under the default count (`40_alu.md` R115, R104; D12, log 12): the unsigned operand times 2^n modulo 2^32, n
the low five bits of Rt. -/
def Obligations.ShlMultipliesByAPowerOfTwo : Prop :=
  ∀ (rd rs rt : RegNum) (s : State), ∃ t, exec (.shl rd rs rt) s = .next t ∧
    (t.readReg rd).toNat =
      (if rd = 0#4 then 0 else (s.readReg rs).toNat * 2 ^ ((s.readReg rt).extractLsb' 0 5).toNat % 2 ^ 32) ∧
    OnlyRegs [rd] s t

/-! ## Branches -/

/-- The condition and the target (`41_branch.md` R130, R131). A branch is hit when some bit set in CC is also set in
STAT; BRA and BRR are taken when hit, BNE and BNR when not; the absolute target is the immediate, the relative one
the incremented PC plus the signed immediate modulo 2^16; a branch not taken leaves the incremented PC. Nothing but
the PC changes. -/
def Obligations.BranchesTestAnySelectedBit : Prop :=
  ∀ (cc : CondMask) (imm : Imm) (s : State),
    let hit := ∃ k < 4, cc.getLsbD k = true ∧ s.stat.getLsbD k = true
    let relative := BitVec.ofInt 16 ((s.pc.toNat : Int) + imm.toInt)
    (∃ t, exec (.bra cc imm) s = .next { s with pc := t } ∧ (hit → t = imm) ∧ (¬hit → t = s.pc)) ∧
    (∃ t, exec (.brr cc imm) s = .next { s with pc := t } ∧ (hit → t = relative) ∧ (¬hit → t = s.pc)) ∧
    (∃ t, exec (.bne cc imm) s = .next { s with pc := t } ∧ (¬hit → t = imm) ∧ (hit → t = s.pc)) ∧
    (∃ t, exec (.bnr cc imm) s = .next { s with pc := t } ∧ (¬hit → t = relative) ∧ (hit → t = s.pc))

/-- Which branch on which CC tests which relation after SUB Rd,Rs,Rt: the thirteen rows of `41_branch.md` R136 (D13,
D22, D27, log 14). -/
def Obligations.BranchesAfterSubTestTheComparison : Prop :=
  ∀ (rd rs rt : RegNum) (s t : State), exec (.sub rd rs rt) s = .next t →
    let a := s.readReg rs
    let b := s.readReg rt
    PositiveTakenIff 0b0001#4 t (a = b) ∧
    NegativeTakenIff 0b0001#4 t (a ≠ b) ∧
    PositiveTakenIff 0b0010#4 t (a.toInt < b.toInt) ∧
    NegativeTakenIff 0b0010#4 t (b.toInt ≤ a.toInt) ∧
    PositiveTakenIff 0b0011#4 t (a.toInt ≤ b.toInt) ∧
    NegativeTakenIff 0b0011#4 t (b.toInt < a.toInt) ∧
    PositiveTakenIff 0b1000#4 t (a.toNat < b.toNat) ∧
    NegativeTakenIff 0b1000#4 t (b.toNat ≤ a.toNat) ∧
    PositiveTakenIff 0b1001#4 t (a.toNat ≤ b.toNat) ∧
    NegativeTakenIff 0b1001#4 t (b.toNat < a.toNat) ∧
    PositiveTakenIff 0b0100#4 t (a.toInt - b.toInt < -2 ^ 31 ∨ 2 ^ 31 - 1 < a.toInt - b.toInt) ∧
    NegativeTakenIff 0b0000#4 t True ∧
    PositiveTakenIff 0b0000#4 t False

/-! ## Loads, stores and SWP -/

/-- The addresses (`20_memory.md` R44): base plus offset is the low half of the sum, so the high halves of registers
never reach memory and addresses wrap modulo 2^16; what LDP, LDR, STP and STR write back is the full 32-bit sum. -/
def Obligations.AddressesUseTheLowHalfAndBasesKeepAll : Prop :=
  (∀ (s : State) (rs : RegNum) (imm : Imm),
    s.indexedAddr rs imm = (s.readReg rs + imm.signExtend 32).extractLsb' 0 16 ∧
    s.indexedAddr rs imm = (s.readReg rs).extractLsb' 0 16 + imm ∧
    s.registerAddr rs = (s.readReg rs).extractLsb' 0 16) ∧
  (∀ (i : Instr) (s s' : State),
    (∀ r, (s.readReg r).extractLsb' 0 16 = (s'.readReg r).extractLsb' 0 16) →
    loadAddr i s = loadAddr i s' ∧ (storeEffect i s).map Prod.fst = (storeEffect i s').map Prod.fst) ∧
  ∀ (rd rs : RegNum) (imm : Imm) (s t : State), rs ≠ 0#4 →
    ((rd ≠ rs ∧ (exec (.ldp rd rs imm) s = .next t ∨ exec (.ldr rd rs imm) s = .next t)) ∨
      exec (.stp rd rs imm) s = .next t ∨ exec (.str rd rs imm) s = .next t) →
    t.readReg rs = s.readReg rs + imm.signExtend 32

/-- LDX and LDA (`42_load_store_swap.md` R142, R143), where the data word has a value: it goes to Rd, or with Rd = R0
is discarded. -/
def Obligations.LoadsWithoutUpdateCopyTheWord : Prop :=
  ∀ (rd rs : RegNum) (imm : Imm) (s : State) (w : Word),
    (s.dataAt (s.indexedAddr rs imm) = some w → ∃ t, exec (.ldx rd rs imm) s = .next t ∧
      t.readReg rd = (if rd = 0#4 then 0#32 else w) ∧ OnlyRegs [rd] s t) ∧
    (s.dataAt imm = some w → ∃ t, exec (.lda rd imm) s = .next t ∧
      t.readReg rd = (if rd = 0#4 then 0#32 else w) ∧ OnlyRegs [rd] s t)

/-- LDP and LDR (`42_load_store_swap.md` R144, R145, R141; D24, log 26), with Rd and Rs different or both R0, where
the data word has a value: the word goes to Rd, and Rs takes the 32-bit sum of its old value and the offset. -/
def Obligations.LoadsWithUpdateCopyTheWordAndMoveTheBase : Prop :=
  ∀ (rd rs : RegNum) (imm : Imm) (s : State) (w : Word), rd ≠ rs ∨ rd = 0#4 →
    (s.dataAt (s.indexedAddr rs imm) = some w → ∃ t, exec (.ldp rd rs imm) s = .next t ∧
      t.readReg rd = (if rd = 0#4 then 0#32 else w) ∧
      t.readReg rs = (if rs = 0#4 then 0#32 else s.readReg rs + imm.signExtend 32) ∧ OnlyRegs [rd, rs] s t) ∧
    (s.dataAt (s.registerAddr rs) = some w → ∃ t, exec (.ldr rd rs imm) s = .next t ∧
      t.readReg rd = (if rd = 0#4 then 0#32 else w) ∧
      t.readReg rs = (if rs = 0#4 then 0#32 else s.readReg rs + imm.signExtend 32) ∧ OnlyRegs [rd, rs] s t)

/-- LDP and LDR with Rd = Rs other than R0: the model goes on with "either of the two values, as a draw"
(`42_load_store_swap.md` R150; the draw instead of the stop is the model's choice among R150's two, log 15): the
register holds the loaded word or the updated base, one draw is made, and nothing else changes. -/
def Obligations.LoadIntoItsOwnBaseTakesEitherValue : Prop :=
  ∀ (r : RegNum) (imm : Imm) (s : State) (w : Word), r ≠ 0#4 →
    (s.dataAt (s.indexedAddr r imm) = some w → ∃ t, exec (.ldp r r imm) s = .next t ∧
      (t.readReg r = w ∨ t.readReg r = s.readReg r + imm.signExtend 32) ∧ t.draws = s.draws + 1 ∧
      OnlyRegs [r] s { t with draws := s.draws }) ∧
    (s.dataAt (s.registerAddr r) = some w → ∃ t, exec (.ldr r r imm) s = .next t ∧
      (t.readReg r = w ∨ t.readReg r = s.readReg r + imm.signExtend 32) ∧ t.draws = s.draws + 1 ∧
      OnlyRegs [r] s { t with draws := s.draws })

/-- A load of a data word that holds no value stops, naming the word and the instruction's address, whatever its
registers (`70_reset_and_hazards.md` R191, `60_exceptions.md` R171; D18, log 7). THE MODEL'S CHOICE: LDP and LDR with
Rd = Rs other than R0 stop so too, where R144, R145 and R173 raise UnspecifiedOperands before the data word is read
(log 15, log 27). -/
def Obligations.LoadOfAnUnwrittenWordStops : Prop :=
  ∀ (rd rs : RegNum) (imm : Imm) (s : State) (a : Addr), s.dataAt a = none →
    let stop : Result := .fault (.readBeforeWrite (.dataWord a) (s.pc - 1#16))
    (s.indexedAddr rs imm = a → exec (.ldx rd rs imm) s = stop ∧ exec (.ldp rd rs imm) s = stop) ∧
    (imm = a → exec (.lda rd imm) s = stop) ∧
    (s.registerAddr rs = a → exec (.ldr rd rs imm) s = stop)

/-- STX (`42_load_store_swap.md` R146), encoding, effect and frame: the address is the low half of the sum, Rd = R0
stores zero, no register is written. -/
def Obligations.StxStoresAtBasePlusOffset : Prop :=
  (∀ w : Word, w &&& 0xFF000000#32 = 0x28000000#32 →
    decode w = .ok (.stx (w.extractLsb' 20 4) (w.extractLsb' 16 4) (w.extractLsb' 0 16))) ∧
  ∀ (rd rs : RegNum) (imm : Imm) (s : State), ∃ t, exec (.stx rd rs imm) s = .next t ∧
    s.indexedAddr rs imm = (s.readReg rs + imm.signExtend 32).extractLsb' 0 16 ∧
    t.dataAt (s.indexedAddr rs imm) = some (if rd = 0#4 then 0#32 else s.readReg rd) ∧
    OnlyRegsAndWord [] (s.indexedAddr rs imm) s t

/-- STA (`42_load_store_swap.md` R147), encoding, effect and frame: the address is the immediate, Rd = R0 clears the
word, the Rs field is ignored. -/
def Obligations.StaStoresAtTheImmediate : Prop :=
  (∀ w : Word, w &&& 0xFF000000#32 = 0x20000000#32 →
    decode w = .ok (.sta (w.extractLsb' 20 4) (w.extractLsb' 0 16))) ∧
  ∀ (rd : RegNum) (imm : Imm) (s : State), ∃ t, exec (.sta rd imm) s = .next t ∧
    t.dataAt imm = some (if rd = 0#4 then 0#32 else s.readReg rd) ∧ OnlyRegsAndWord [] imm s t

/-- STP and STR (`42_load_store_swap.md` R148, R149, R151; D14, D24, log 16, log 26): the old Rd is stored, also where
Rd = Rs, at the sum's low half or at the old base's, and Rs takes the 32-bit sum. -/
def Obligations.StoresWithUpdateStoreTheOldValue : Prop :=
  ∀ (rd rs : RegNum) (imm : Imm) (s : State),
    (∃ t, exec (.stp rd rs imm) s = .next t ∧ t.dataAt (s.indexedAddr rs imm) = some (s.readReg rd) ∧
      t.readReg rs = (if rs = 0#4 then 0#32 else s.readReg rs + imm.signExtend 32) ∧
      OnlyRegsAndWord [rs] (s.indexedAddr rs imm) s t) ∧
    (∃ t, exec (.str rd rs imm) s = .next t ∧ t.dataAt (s.registerAddr rs) = some (s.readReg rd) ∧
      t.readReg rs = (if rs = 0#4 then 0#32 else s.readReg rs + imm.signExtend 32) ∧
      OnlyRegsAndWord [rs] (s.registerAddr rs) s t)

/-- "Every load returns the value of the latest store to the same address" (`20_memory.md` R47; D10): a store, then any
instructions none of which stores to its address. The data word then has the stored value, and every load of that
address finds it: LDX and LDA put it into Rd, LDP and LDR too where Rd is not Rs or both are R0 (with Rd = R0 the word
is discarded). THE MODEL'S CHOICE: where Rd = Rs is another register LDP and LDR go on and leave it or the updated base
there, where R144, R145 and R171 stop with UnspecifiedOperands (R150 allows either; log 15). -/
def Obligations.LoadReturnsTheLatestStore : Prop :=
  ∀ (i : Instr) (js : List Instr) (s t u : State) (a : Addr) (v : Word),
    storeEffect i s = some (a, v) → exec i s = .next t → RunsWithoutStoreTo a js t u →
    u.dataAt a = some v ∧
    ∀ (j : Instr), loadAddr j u = some a → ∃ x, exec j u = .next x ∧
      match j with
      | .ldx rd _ _ | .lda rd _ => x.readReg rd = if rd = 0#4 then 0#32 else v
      | .ldp rd rs imm | .ldr rd rs imm =>
        if rd = 0#4 then x.readReg rd = 0#32
        else if rd = rs then x.readReg rd = v ∨ x.readReg rd = u.readReg rs + imm.signExtend 32
        else x.readReg rd = v
      | _ => True

/-- A push (STP with -1) and then a pop (LDR with +1) over one base register other than R0, the popped register
another: the pop gives the pushed word, the base is as before, and so is all memory but the pushed word
(`42_load_store_swap.md` R145, R148; D14, D24, log 16, log 26). -/
def Obligations.PushThenPopGivesTheWordBack : Prop :=
  ∀ (rd rq rs : RegNum) (s : State), rs ≠ 0#4 → rq ≠ rs →
    ∃ t u, exec (.stp rd rs 0xFFFF#16) s = .next t ∧ exec (.ldr rq rs 0x0001#16) t = .next u ∧
      u.readReg rq = (if rq = 0#4 then 0#32 else s.readReg rd) ∧ u.readReg rs = s.readReg rs ∧
      DataKeptBut (s.indexedAddr rs 0xFFFF#16) s u

/-- SWP (`42_load_store_swap.md` R152), encoding, exchange and frame: each register takes the other's old value, with
R0 in one field the other register becomes zero, and no memory is touched. -/
def Obligations.SwpExchangesTwoRegisters : Prop :=
  (∀ w : Word, w &&& 0xF0000000#32 = 0x30000000#32 →
    decode w = .ok (.swp (w.extractLsb' 20 4) (w.extractLsb' 16 4))) ∧
  ∀ (rd rs : RegNum) (s : State), ∃ t, exec (.swp rd rs) s = .next t ∧
    t.readReg rd = (if rd = 0#4 then 0#32 else s.readReg rs) ∧
    t.readReg rs = (if rs = 0#4 then 0#32 else s.readReg rd) ∧ OnlyRegs [rd, rs] s t

/-! ## Pseudo-instructions and constants -/

/-- The five arithmetic pseudo-instructions with their status (`30_encoding.md` R78 to R81, R84; D7, D13, D22, D27, log
10, log 14): CLR's and NEG's always, LRI's, INC's and DEC's being that of ADI, written under `ADI_WRITES_STATUS` and
otherwise as before. With Rd = R0 the result is discarded. -/
def Obligations.PseudoInstructionsDoTheirArithmetic : Prop :=
  ∀ (rd : RegNum) (imm : Imm) (s : State),
    let x := s.readReg rd
    (∃ t, exec (.clr rd) s = .next t ∧ t.readReg rd = 0#32 ∧ t.stat = 0b0001#4 ∧ OnlyRegsAndStat [rd] s t) ∧
    (∃ t, exec (.lri rd imm) s = .next t ∧ t.readReg rd = (if rd = 0#4 then 0#32 else imm.signExtend 32) ∧
      (if settings.adiWritesStatus = true then t.stat.getLsbD 3 = false ∧ t.stat.getLsbD 2 = false ∧
        t.stat.getLsbD 1 = imm.getLsbD 15 ∧ t.stat.getLsbD 0 = (imm == 0#16) else t.stat = s.stat) ∧
      OnlyRegsAndStat [rd] s t) ∧
    (∃ t, exec (.inc rd) s = .next t ∧ t.readReg rd = (if rd = 0#4 then 0#32 else x + 1#32) ∧
      (if settings.adiWritesStatus = true then ExactAddStatus x 1#32 t.stat else t.stat = s.stat) ∧
      OnlyRegsAndStat [rd] s t) ∧
    (∃ t, exec (.dec rd) s = .next t ∧ t.readReg rd = (if rd = 0#4 then 0#32 else x - 1#32) ∧
      (if settings.adiWritesStatus = true then ExactAddStatus x 0xFFFFFFFF#32 t.stat ∧
        t.stat.getLsbD 3 = (x != 0#32) else t.stat = s.stat) ∧ OnlyRegsAndStat [rd] s t) ∧
    (∃ t, exec (.neg rd) s = .next t ∧ t.readReg rd = 0#32 - x ∧
      t.stat.getLsbD 3 = (x != 0#32) ∧ t.stat.getLsbD 2 = (x == 0x80000000#32) ∧
      t.stat.getLsbD 1 = decide (0 < x.toInt) ∧ t.stat.getLsbD 0 = (x == 0#32) ∧ OnlyRegsAndStat [rd] s t)

/-- The two memory pseudo-instructions: STI stores Rd at Rs, LDI loads Rd from Rs (`30_encoding.md` R82, R83). -/
def Obligations.PseudoInstructionsReachMemoryIndirectly : Prop :=
  ∀ (rd rs : RegNum) (s : State),
    let a := (s.readReg rs).extractLsb' 0 16
    (∃ t, exec (.sti rd rs) s = .next t ∧ t.dataAt a = some (s.readReg rd) ∧ OnlyRegsAndWord [] a s t) ∧
    ∀ w, s.dataAt a = some w → ∃ t, exec (.ldi rd rs) s = .next t ∧
      t.readReg rd = (if rd = 0#4 then 0#32 else w) ∧ OnlyRegs [rd] s t

/-- The recipe for a 32-bit constant (`30_encoding.md` R69; D12, log 12): ADI the top half, SHL by 16, ADI the lower
half; where bit 15 of the lower half is 1 the top half must be loaded one greater. -/
def Obligations.TwoHalvesBuildAConstant : Prop :=
  ∀ (rd rc : RegNum) (hi lo : Imm) (s : State), rd ≠ 0#4 → rc ≠ rd → s.readReg rc = 16#32 →
    ∃ t u v, exec (.adi rd 0#4 (if lo.msb then hi + 1#16 else hi)) s = .next t ∧ exec (.shl rd rd rc) t = .next u ∧
      exec (.adi rd rd lo) u = .next v ∧ v.readReg rd = hi ++ lo
end

