-- ==== Sys2Proof/Laws/Decode.lean ====
section
/-! SUPPORT. What the layout table comes to: the fields of a word, the unused bits of each format, and the word that
each format puts together, so that later proofs unfold neither the table nor the formats. -/

namespace Sys2Proof

/-! ### The fields (`30_encoding.md` R62) -/

theorem opcodeOf_eq (w : InstrWord) : opcodeOf w = w.extractLsb' 28 4 := rfl
theorem mmOf_eq (w : InstrWord) : mmOf w = w.extractLsb' 24 4 := rfl
theorem rdOf_eq (w : InstrWord) : rdOf w = w.extractLsb' 20 4 := rfl
theorem rsOf_eq (w : InstrWord) : rsOf w = w.extractLsb' 16 4 := rfl
theorem rtOf_eq (w : InstrWord) : rtOf w = w.extractLsb' 12 4 := rfl
theorem functOf_eq (w : InstrWord) : functOf w = w.extractLsb' 0 4 := rfl
theorem immOf_eq (w : InstrWord) : immOf w = w.extractLsb' 0 16 := rfl

/-! ### The unused bits, instruction by instruction (R74) -/

@[simp] theorem unusedBits_nop : Instr.nop.unusedBits = 0x0FFFFFFF#32 := by
  simp [Instr.unusedBits, Instr.fields, Instr.format, Format.fields, Instr.idleFields, BitField.mask]
@[simp] theorem unusedBits_hlt : Instr.hlt.unusedBits = 0x0FFFFFFF#32 := by
  simp [Instr.unusedBits, Instr.fields, Instr.format, Format.fields, Instr.idleFields, BitField.mask]
@[simp] theorem unusedBits_add (rd rs rt : RegNum) : (Instr.add rd rs rt).unusedBits = 0x00000FF0#32 := by
  simp [Instr.unusedBits, Instr.fields, Instr.format, Format.fields, Instr.idleFields, BitField.mask]
@[simp] theorem unusedBits_sub (rd rs rt : RegNum) : (Instr.sub rd rs rt).unusedBits = 0x00000FF0#32 := by
  simp [Instr.unusedBits, Instr.fields, Instr.format, Format.fields, Instr.idleFields, BitField.mask]
@[simp] theorem unusedBits_or (rd rs rt : RegNum) : (Instr.or rd rs rt).unusedBits = 0x00000FF0#32 := by
  simp [Instr.unusedBits, Instr.fields, Instr.format, Format.fields, Instr.idleFields, BitField.mask]
@[simp] theorem unusedBits_and (rd rs rt : RegNum) : (Instr.and rd rs rt).unusedBits = 0x00000FF0#32 := by
  simp [Instr.unusedBits, Instr.fields, Instr.format, Format.fields, Instr.idleFields, BitField.mask]
@[simp] theorem unusedBits_xor (rd rs rt : RegNum) : (Instr.xor rd rs rt).unusedBits = 0x00000FF0#32 := by
  simp [Instr.unusedBits, Instr.fields, Instr.format, Format.fields, Instr.idleFields, BitField.mask]
@[simp] theorem unusedBits_rtr (rd rs rt : RegNum) : (Instr.rtr rd rs rt).unusedBits = 0x00000FF0#32 := by
  simp [Instr.unusedBits, Instr.fields, Instr.format, Format.fields, Instr.idleFields, BitField.mask]
@[simp] theorem unusedBits_rtl (rd rs rt : RegNum) : (Instr.rtl rd rs rt).unusedBits = 0x00000FF0#32 := by
  simp [Instr.unusedBits, Instr.fields, Instr.format, Format.fields, Instr.idleFields, BitField.mask]
@[simp] theorem unusedBits_shr (rd rs rt : RegNum) : (Instr.shr rd rs rt).unusedBits = 0x00000FF0#32 := by
  simp [Instr.unusedBits, Instr.fields, Instr.format, Format.fields, Instr.idleFields, BitField.mask]
@[simp] theorem unusedBits_shl (rd rs rt : RegNum) : (Instr.shl rd rs rt).unusedBits = 0x00000FF0#32 := by
  simp [Instr.unusedBits, Instr.fields, Instr.format, Format.fields, Instr.idleFields, BitField.mask]
@[simp] theorem unusedBits_not (rd rs : RegNum) : (Instr.not rd rs).unusedBits = 0x0000FFF0#32 := by
  simp [Instr.unusedBits, Instr.fields, Instr.format, Format.fields, Instr.idleFields, BitField.mask]
@[simp] theorem unusedBits_swp (rd rs : RegNum) : (Instr.swp rd rs).unusedBits = 0x0F00FFFF#32 := by
  simp [Instr.unusedBits, Instr.fields, Instr.format, Format.fields, Instr.idleFields, BitField.mask]
@[simp] theorem unusedBits_bra (cc : CondMask) (imm : Imm) : (Instr.bra cc imm).unusedBits = 0x00FF0000#32 := by
  simp [Instr.unusedBits, Instr.fields, Instr.format, Format.fields, Instr.idleFields, BitField.mask]
@[simp] theorem unusedBits_brr (cc : CondMask) (imm : Imm) : (Instr.brr cc imm).unusedBits = 0x00FF0000#32 := by
  simp [Instr.unusedBits, Instr.fields, Instr.format, Format.fields, Instr.idleFields, BitField.mask]
@[simp] theorem unusedBits_bne (cc : CondMask) (imm : Imm) : (Instr.bne cc imm).unusedBits = 0x00FF0000#32 := by
  simp [Instr.unusedBits, Instr.fields, Instr.format, Format.fields, Instr.idleFields, BitField.mask]
@[simp] theorem unusedBits_bnr (cc : CondMask) (imm : Imm) : (Instr.bnr cc imm).unusedBits = 0x00FF0000#32 := by
  simp [Instr.unusedBits, Instr.fields, Instr.format, Format.fields, Instr.idleFields, BitField.mask]
@[simp] theorem unusedBits_lda (rd : RegNum) (imm : Imm) : (Instr.lda rd imm).unusedBits = 0x000F0000#32 := by
  simp [Instr.unusedBits, Instr.fields, Instr.format, Format.fields, Instr.idleFields, BitField.mask]
@[simp] theorem unusedBits_sta (rd : RegNum) (imm : Imm) : (Instr.sta rd imm).unusedBits = 0x000F0000#32 := by
  simp [Instr.unusedBits, Instr.fields, Instr.format, Format.fields, Instr.idleFields, BitField.mask]
@[simp] theorem unusedBits_adi (rd rs : RegNum) (imm : Imm) : (Instr.adi rd rs imm).unusedBits = 0x00000000#32 := by
  simp [Instr.unusedBits, Instr.fields, Instr.format, Format.fields, Instr.idleFields, BitField.mask]
@[simp] theorem unusedBits_ldx (rd rs : RegNum) (imm : Imm) : (Instr.ldx rd rs imm).unusedBits = 0x00000000#32 := by
  simp [Instr.unusedBits, Instr.fields, Instr.format, Format.fields, Instr.idleFields, BitField.mask]
@[simp] theorem unusedBits_ldp (rd rs : RegNum) (imm : Imm) : (Instr.ldp rd rs imm).unusedBits = 0x00000000#32 := by
  simp [Instr.unusedBits, Instr.fields, Instr.format, Format.fields, Instr.idleFields, BitField.mask]
@[simp] theorem unusedBits_ldr (rd rs : RegNum) (imm : Imm) : (Instr.ldr rd rs imm).unusedBits = 0x00000000#32 := by
  simp [Instr.unusedBits, Instr.fields, Instr.format, Format.fields, Instr.idleFields, BitField.mask]
@[simp] theorem unusedBits_stx (rd rs : RegNum) (imm : Imm) : (Instr.stx rd rs imm).unusedBits = 0x00000000#32 := by
  simp [Instr.unusedBits, Instr.fields, Instr.format, Format.fields, Instr.idleFields, BitField.mask]
@[simp] theorem unusedBits_stp (rd rs : RegNum) (imm : Imm) : (Instr.stp rd rs imm).unusedBits = 0x00000000#32 := by
  simp [Instr.unusedBits, Instr.fields, Instr.format, Format.fields, Instr.idleFields, BitField.mask]
@[simp] theorem unusedBits_str (rd rs : RegNum) (imm : Imm) : (Instr.str rd rs imm).unusedBits = 0x00000000#32 := by
  simp [Instr.unusedBits, Instr.fields, Instr.format, Format.fields, Instr.idleFields, BitField.mask]
/-! ### Putting a word together -/

theorem place_eq (f : BitField) (v : BitVec f.width) : place f v = v.setWidth 32 <<< f.lo := rfl

theorem format1_eq (f : BitVec 4) (rd rs rt : RegNum) : format1 f rd rs rt =
    0x80000000#32 ||| rd.setWidth 32 <<< 20 ||| rs.setWidth 32 <<< 16 ||| rt.setWidth 32 <<< 12 ||| f.setWidth 32 := by
  simp [format1, place]

theorem format2_eq (op mm : BitVec 4) (rd rs : RegNum) (imm : Imm) : format2 op mm rd rs imm =
    op.setWidth 32 <<< 28 ||| mm.setWidth 32 <<< 24 ||| rd.setWidth 32 <<< 20 ||| rs.setWidth 32 <<< 16 |||
      imm.setWidth 32 := by
  simp [format2, place]

theorem format3_eq (op : BitVec 4) (cc : CondMask) (imm : Imm) : format3 op cc imm =
    op.setWidth 32 <<< 28 ||| cc.setWidth 32 <<< 24 ||| imm.setWidth 32 := by
  simp [format3, place]

end Sys2Proof
end

