-- ==== Sys2Proof/Laws/Memory.lean ====
section
/-! SUPPORT. The laws of the memory operations: a read after a write, and the canonical form, which every
operation keeps. -/

namespace Sys2Proof.Machine

variable {n : Nat}

/-! ### Reading after writing -/

@[simp] theorem Memory.find_nil (a : Nat) : Memory.find ([] : Memory n) a = none := rfl

/-- A read after a write to the same address gives the value written. -/
@[simp] theorem Memory.find_put_same (m : Memory n) (a : Nat) (v : BitVec n) : (m.put a v).find a = some v := by
  induction m with
  | nil => simp [Memory.put, Memory.find]
  | cons p m ih =>
    obtain ⟨b, w⟩ := p
    unfold Memory.put
    split
    · simp [Memory.find]
    · split
      · simp [Memory.find]
      · rename_i h
        simp [Memory.find, Ne.symm h, ih]

/-- A write leaves every other address as it was. -/
theorem Memory.find_put_other (m : Memory n) {a c : Nat} (v : BitVec n) (h : c ≠ a) : (m.put a v).find c = m.find c := by
  induction m with
  | nil => simp [Memory.put, Memory.find, Ne.symm h]
  | cons p m ih =>
    obtain ⟨b, w⟩ := p
    unfold Memory.put
    split
    · simp [Memory.find, Ne.symm h]
    · split
      · rename_i hb
        subst hb
        simp [Memory.find, Ne.symm h]
      · simp only [Memory.find, ih]

/-- What a write can do to a read, in one line. -/
theorem Memory.find_put (m : Memory n) (a c : Nat) (v : BitVec n) :
    (m.put a v).find c = if c = a then some v else m.find c := by
  split
  · subst_vars; exact Memory.find_put_same m _ v
  · exact Memory.find_put_other m v ‹_›

/-! ### The canonical form -/

theorem Memory.risesFrom_cons {lo b : Nat} {w : BitVec n} {m : Memory n} :
    Memory.risesFrom lo ((b, w) :: m) = true ↔ lo ≤ b ∧ b < 65536 ∧ Memory.risesFrom (b + 1) m = true := by
  simp [Memory.risesFrom, and_assoc]

theorem Memory.risesFrom_put {m : Memory n} {lo a : Nat} (v : BitVec n) (hlo : lo ≤ a) (ha : a < 65536)
    (h : Memory.risesFrom lo m = true) : Memory.risesFrom lo (m.put a v) = true := by
  induction m generalizing lo with
  | nil => exact Memory.risesFrom_cons.mpr ⟨hlo, ha, rfl⟩
  | cons p m ih =>
    obtain ⟨b, w⟩ := p
    obtain ⟨h1, h2, h3⟩ := Memory.risesFrom_cons.mp h
    unfold Memory.put
    split
    · exact Memory.risesFrom_cons.mpr ⟨hlo, ha, Memory.risesFrom_cons.mpr ⟨by omega, h2, h3⟩⟩
    · split
      · subst_vars
        exact Memory.risesFrom_cons.mpr ⟨hlo, ha, h3⟩
      · exact Memory.risesFrom_cons.mpr ⟨h1, h2, ih (by omega) h3⟩

@[simp] theorem Memory.wf_nil : Memory.wf ([] : Memory n) = true := rfl

/-- A write of one word keeps the canonical form. -/
theorem Memory.wf_put {m : Memory n} (a : Addr) (v : BitVec n) (h : m.wf = true) : (m.put a.toNat v).wf = true :=
  Memory.risesFrom_put v (Nat.zero_le _) a.isLt h

/-- Loading an image keeps the canonical form. -/
theorem Memory.wf_putWords {m : Memory n} (a : Addr) (ws : List (BitVec n)) (h : m.wf = true) :
    (m.putWords a ws).wf = true := by
  induction ws generalizing m a with
  | nil => exact h
  | cons w ws ih => exact ih _ (Memory.wf_put a w h)

theorem State.reset_imem_wf : State.reset.imem.wf = true := rfl
theorem State.reset_dmem_wf : State.reset.dmem.wf = true := rfl

/-- Merging what a run stored into the image keeps the canonical form. -/
theorem wf_mergeStores {m : Memory 32} {image : Memory layout.ilen} {lo : Nat} (h : Memory.risesFrom lo m = true)
    (hi : image.wf = true) : (mergeStores image m).wf = true := by
  induction m generalizing image lo with
  | nil => exact hi
  | cons p m ih =>
    obtain ⟨b, w⟩ := p
    obtain ⟨_, hb, hm⟩ := Memory.risesFrom_cons.mp h
    exact ih hm (Memory.risesFrom_put _ (Nat.zero_le _) hb hi)

/-! ### One memory or two (`20_memory.md` R49) -/

/-- What a store does to what a load finds, whether the memories are one or two. -/
theorem findData_put (unified : Bool) (image : Memory layout.ilen) (m : Memory 32) (a b : Nat) (v : Word) :
    findData unified image (m.put a v) b = if b = a then some v else findData unified image m b := by
  by_cases h : b = a <;> cases unified <;> simp [findData, Memory.find_put, h]

/-- Where the memories are one, a fetch from an address stored to is refused. -/
theorem fetchRefused_put (m : Memory 32) (a : Nat) (v : Word) : fetchRefused true (m.put a v) a = true := by
  simp [fetchRefused]

/-- With two memories a load finds what data memory holds. -/
theorem State.dataAt_eq (s : State) (a : Addr) : s.dataAt a = s.dmem.find a.toNat := rfl

/-- With two memories no fetch is refused. -/
@[simp] theorem fetchRefused_settings (m : Memory 32) (a : Nat) : fetchRefused settings.unifiedMemory m a = false := rfl

/-- With two memories the begin of a run changes nothing. -/
@[simp] theorem State.beginRun_eq (s : State) : s.beginRun settings.unifiedMemory = s := rfl

/-! ### The memories of the state -/

/-- What a store does to data memory, word by word. -/
theorem State.dataAt_putData (s : State) (a b : Addr) (v : Word) :
    (s.putData a v).dataAt b = if b = a then some v else s.dataAt b := by
  simp only [State.dataAt, State.putData, findData_put, BitVec.toNat_inj]

/-- What the host's word does to instruction memory, word by word. -/
theorem State.instrAt_putInstr (s : State) (a b : Addr) (w : InstrWord) :
    (s.putInstr a w).instrAt b = if b = a then some w else s.instrAt b := by
  simp only [State.instrAt, State.putInstr, State.beginRun_eq, Memory.find_put, BitVec.toNat_inj]

end Sys2Proof.Machine
end

