-- ==== Sys2Proof/Laws/State.lean ====
section
/-! SUPPORT. One lemma per field, and per observation, of each update of the state: none needs a record update
unfolded again. -/

namespace Sys2Proof.Machine.State

variable (s : State)

/-! ### writeReg -/

@[simp] theorem writeReg_regs (r : RegNum) (v : Word) : (s.writeReg r v).regs = regSet s.regs r v := rfl
@[simp] theorem writeReg_pc (r : RegNum) (v : Word) : (s.writeReg r v).pc = s.pc := rfl
@[simp] theorem writeReg_stat (r : RegNum) (v : Word) : (s.writeReg r v).stat = s.stat := rfl
@[simp] theorem writeReg_imem (r : RegNum) (v : Word) : (s.writeReg r v).imem = s.imem := rfl
@[simp] theorem writeReg_dmem (r : RegNum) (v : Word) : (s.writeReg r v).dmem = s.dmem := rfl
@[simp] theorem writeReg_run (r : RegNum) (v : Word) : (s.writeReg r v).run = s.run := rfl
@[simp] theorem writeReg_draws (r : RegNum) (v : Word) : (s.writeReg r v).draws = s.draws := rfl
@[simp] theorem writeReg_dataAt (r : RegNum) (v : Word) (b : Addr) : (s.writeReg r v).dataAt b = s.dataAt b := rfl
@[simp] theorem writeReg_instrAt (r : RegNum) (v : Word) (b : Addr) : (s.writeReg r v).instrAt b = s.instrAt b := rfl
@[simp] theorem writeReg_instrAddr (r : RegNum) (v : Word) : (s.writeReg r v).instrAddr = s.instrAddr := rfl

/-! ### setPc -/

@[simp] theorem setPc_regs (t : Addr) : (s.setPc t).regs = s.regs := rfl
@[simp] theorem setPc_pc (t : Addr) : (s.setPc t).pc = t := rfl
@[simp] theorem setPc_stat (t : Addr) : (s.setPc t).stat = s.stat := rfl
@[simp] theorem setPc_imem (t : Addr) : (s.setPc t).imem = s.imem := rfl
@[simp] theorem setPc_dmem (t : Addr) : (s.setPc t).dmem = s.dmem := rfl
@[simp] theorem setPc_run (t : Addr) : (s.setPc t).run = s.run := rfl
@[simp] theorem setPc_draws (t : Addr) : (s.setPc t).draws = s.draws := rfl
@[simp] theorem setPc_readReg (t : Addr) (q : RegNum) : (s.setPc t).readReg q = s.readReg q := rfl
@[simp] theorem setPc_dataAt (t : Addr) (b : Addr) : (s.setPc t).dataAt b = s.dataAt b := rfl
@[simp] theorem setPc_instrAt (t : Addr) (b : Addr) : (s.setPc t).instrAt b = s.instrAt b := rfl

/-! ### advance -/

@[simp] theorem advance_regs : s.advance.regs = s.regs := rfl
@[simp] theorem advance_pc : s.advance.pc = s.pc + 1#16 := rfl
@[simp] theorem advance_stat : s.advance.stat = s.stat := rfl
@[simp] theorem advance_imem : s.advance.imem = s.imem := rfl
@[simp] theorem advance_dmem : s.advance.dmem = s.dmem := rfl
@[simp] theorem advance_run : s.advance.run = s.run := rfl
@[simp] theorem advance_draws : s.advance.draws = s.draws := rfl
@[simp] theorem advance_readReg (q : RegNum) : s.advance.readReg q = s.readReg q := rfl
@[simp] theorem advance_dataAt (b : Addr) : s.advance.dataAt b = s.dataAt b := rfl
@[simp] theorem advance_instrAt (b : Addr) : s.advance.instrAt b = s.instrAt b := rfl

/-! ### setStat -/

@[simp] theorem setStat_regs (v : Status) : (s.setStat v).regs = s.regs := rfl
@[simp] theorem setStat_pc (v : Status) : (s.setStat v).pc = s.pc := rfl
@[simp] theorem setStat_stat (v : Status) : (s.setStat v).stat = v := rfl
@[simp] theorem setStat_imem (v : Status) : (s.setStat v).imem = s.imem := rfl
@[simp] theorem setStat_dmem (v : Status) : (s.setStat v).dmem = s.dmem := rfl
@[simp] theorem setStat_run (v : Status) : (s.setStat v).run = s.run := rfl
@[simp] theorem setStat_draws (v : Status) : (s.setStat v).draws = s.draws := rfl
@[simp] theorem setStat_readReg (v : Status) (q : RegNum) : (s.setStat v).readReg q = s.readReg q := rfl
@[simp] theorem setStat_dataAt (v : Status) (b : Addr) : (s.setStat v).dataAt b = s.dataAt b := rfl
@[simp] theorem setStat_instrAt (v : Status) (b : Addr) : (s.setStat v).instrAt b = s.instrAt b := rfl
@[simp] theorem setStat_instrAddr (v : Status) : (s.setStat v).instrAddr = s.instrAddr := rfl

/-! ### halt -/

@[simp] theorem halt_regs : s.halt.regs = s.regs := rfl
@[simp] theorem halt_pc : s.halt.pc = s.pc := rfl
@[simp] theorem halt_stat : s.halt.stat = s.stat := rfl
@[simp] theorem halt_imem : s.halt.imem = s.imem := rfl
@[simp] theorem halt_dmem : s.halt.dmem = s.dmem := rfl
@[simp] theorem halt_run : s.halt.run = .halted := rfl
@[simp] theorem halt_draws : s.halt.draws = s.draws := rfl
@[simp] theorem halt_readReg (q : RegNum) : s.halt.readReg q = s.readReg q := rfl
@[simp] theorem halt_dataAt (b : Addr) : s.halt.dataAt b = s.dataAt b := rfl
@[simp] theorem halt_instrAt (b : Addr) : s.halt.instrAt b = s.instrAt b := rfl
@[simp] theorem halt_instrAddr : s.halt.instrAddr = s.instrAddr := rfl

/-! ### drawn -/

@[simp] theorem drawn_regs : s.drawn.regs = s.regs := rfl
@[simp] theorem drawn_pc : s.drawn.pc = s.pc := rfl
@[simp] theorem drawn_stat : s.drawn.stat = s.stat := rfl
@[simp] theorem drawn_imem : s.drawn.imem = s.imem := rfl
@[simp] theorem drawn_dmem : s.drawn.dmem = s.dmem := rfl
@[simp] theorem drawn_run : s.drawn.run = s.run := rfl
@[simp] theorem drawn_draws : s.drawn.draws = s.draws + 1 := rfl
@[simp] theorem drawn_readReg (q : RegNum) : s.drawn.readReg q = s.readReg q := rfl
@[simp] theorem drawn_dataAt (b : Addr) : s.drawn.dataAt b = s.dataAt b := rfl
@[simp] theorem drawn_instrAt (b : Addr) : s.drawn.instrAt b = s.instrAt b := rfl
@[simp] theorem drawn_instrAddr : s.drawn.instrAddr = s.instrAddr := rfl

/-! ### putData -/

@[simp] theorem putData_regs (a : Addr) (v : Word) : (s.putData a v).regs = s.regs := rfl
@[simp] theorem putData_pc (a : Addr) (v : Word) : (s.putData a v).pc = s.pc := rfl
@[simp] theorem putData_stat (a : Addr) (v : Word) : (s.putData a v).stat = s.stat := rfl
@[simp] theorem putData_imem (a : Addr) (v : Word) : (s.putData a v).imem = s.imem := rfl
@[simp] theorem putData_dmem (a : Addr) (v : Word) : (s.putData a v).dmem = s.dmem.put a.toNat v := rfl
@[simp] theorem putData_run (a : Addr) (v : Word) : (s.putData a v).run = s.run := rfl
@[simp] theorem putData_draws (a : Addr) (v : Word) : (s.putData a v).draws = s.draws := rfl
@[simp] theorem putData_readReg (a : Addr) (v : Word) (q : RegNum) : (s.putData a v).readReg q = s.readReg q := rfl
@[simp] theorem putData_instrAt (a : Addr) (v : Word) (b : Addr) : (s.putData a v).instrAt b = s.instrAt b := rfl
@[simp] theorem putData_instrAddr (a : Addr) (v : Word) : (s.putData a v).instrAddr = s.instrAddr := rfl

/-! ### putInstr -/

@[simp] theorem putInstr_regs (a : Addr) (w : InstrWord) : (s.putInstr a w).regs = s.regs := rfl
@[simp] theorem putInstr_pc (a : Addr) (w : InstrWord) : (s.putInstr a w).pc = s.pc := rfl
@[simp] theorem putInstr_stat (a : Addr) (w : InstrWord) : (s.putInstr a w).stat = s.stat := rfl
@[simp] theorem putInstr_imem (a : Addr) (w : InstrWord) : (s.putInstr a w).imem = s.imem.put a.toNat w := rfl
@[simp] theorem putInstr_dmem (a : Addr) (w : InstrWord) : (s.putInstr a w).dmem = s.dmem := rfl
@[simp] theorem putInstr_run (a : Addr) (w : InstrWord) : (s.putInstr a w).run = s.run := rfl
@[simp] theorem putInstr_draws (a : Addr) (w : InstrWord) : (s.putInstr a w).draws = s.draws := rfl
@[simp] theorem putInstr_readReg (a : Addr) (w : InstrWord) (q : RegNum) : (s.putInstr a w).readReg q = s.readReg q := rfl
@[simp] theorem putInstr_dataAt (a : Addr) (w : InstrWord) (b : Addr) : (s.putInstr a w).dataAt b = s.dataAt b := rfl
@[simp] theorem putInstr_instrAddr (a : Addr) (w : InstrWord) : (s.putInstr a w).instrAddr = s.instrAddr := rfl

/-! ### placeWord -/

@[simp] theorem placeWord_regs (w : InstrWord) : (s.placeWord w).regs = s.regs := rfl
@[simp] theorem placeWord_pc (w : InstrWord) : (s.placeWord w).pc = s.pc := rfl
@[simp] theorem placeWord_stat (w : InstrWord) : (s.placeWord w).stat = s.stat := rfl
@[simp] theorem placeWord_imem (w : InstrWord) : (s.placeWord w).imem = s.imem.put s.pc.toNat w := rfl
@[simp] theorem placeWord_dmem (w : InstrWord) : (s.placeWord w).dmem = s.dmem := rfl
@[simp] theorem placeWord_run (w : InstrWord) : (s.placeWord w).run = .running := rfl
@[simp] theorem placeWord_draws (w : InstrWord) : (s.placeWord w).draws = s.draws := rfl
@[simp] theorem placeWord_readReg (w : InstrWord) (q : RegNum) : (s.placeWord w).readReg q = s.readReg q := rfl
@[simp] theorem placeWord_dataAt (w : InstrWord) (b : Addr) : (s.placeWord w).dataAt b = s.dataAt b := rfl
@[simp] theorem placeWord_instrAddr (w : InstrWord) : (s.placeWord w).instrAddr = s.instrAddr := rfl

/-! ### arith -/

@[simp] theorem arith_regs (r : RegNum) (st : Status) (v : Word) : (s.arith r st v).regs = regSet s.regs r v := rfl
@[simp] theorem arith_pc (r : RegNum) (st : Status) (v : Word) : (s.arith r st v).pc = s.pc := rfl
@[simp] theorem arith_stat (r : RegNum) (st : Status) (v : Word) : (s.arith r st v).stat = st := rfl
@[simp] theorem arith_imem (r : RegNum) (st : Status) (v : Word) : (s.arith r st v).imem = s.imem := rfl
@[simp] theorem arith_dmem (r : RegNum) (st : Status) (v : Word) : (s.arith r st v).dmem = s.dmem := rfl
@[simp] theorem arith_run (r : RegNum) (st : Status) (v : Word) : (s.arith r st v).run = s.run := rfl
@[simp] theorem arith_draws (r : RegNum) (st : Status) (v : Word) : (s.arith r st v).draws = s.draws := rfl
@[simp] theorem arith_dataAt (r : RegNum) (st : Status) (v : Word) (b : Addr) : (s.arith r st v).dataAt b = s.dataAt b := rfl
@[simp] theorem arith_instrAt (r : RegNum) (st : Status) (v : Word) (b : Addr) : (s.arith r st v).instrAt b = s.instrAt b := rfl
@[simp] theorem arith_instrAddr (r : RegNum) (st : Status) (v : Word) : (s.arith r st v).instrAddr = s.instrAddr := rfl

/-! ### logicStatus, logic: STAT survives a logic, shift or rotate instruction (R103) -/

@[simp] theorem logicStatus_eq : s.logicStatus = s := rfl
@[simp] theorem logic_eq (r : RegNum) (v : Word) : s.logic r v = s.writeReg r v := rfl

/-! ### branchIf: only the PC can change -/

@[simp] theorem branchIf_regs (c : Bool) (t : Addr) : (s.branchIf c t).regs = s.regs := by
  cases c <;> rfl
@[simp] theorem branchIf_pc (c : Bool) (t : Addr) : (s.branchIf c t).pc = if c then t else s.pc := by
  cases c <;> rfl
@[simp] theorem branchIf_stat (c : Bool) (t : Addr) : (s.branchIf c t).stat = s.stat := by
  cases c <;> rfl
@[simp] theorem branchIf_imem (c : Bool) (t : Addr) : (s.branchIf c t).imem = s.imem := by
  cases c <;> rfl
@[simp] theorem branchIf_dmem (c : Bool) (t : Addr) : (s.branchIf c t).dmem = s.dmem := by
  cases c <;> rfl
@[simp] theorem branchIf_run (c : Bool) (t : Addr) : (s.branchIf c t).run = s.run := by
  cases c <;> rfl
@[simp] theorem branchIf_draws (c : Bool) (t : Addr) : (s.branchIf c t).draws = s.draws := by
  cases c <;> rfl
@[simp] theorem branchIf_readReg (c : Bool) (t : Addr) (q : RegNum) : (s.branchIf c t).readReg q = s.readReg q := by
  cases c <;> rfl
@[simp] theorem branchIf_dataAt (c : Bool) (t : Addr) (b : Addr) : (s.branchIf c t).dataAt b = s.dataAt b := by
  cases c <;> rfl
@[simp] theorem branchIf_instrAt (c : Bool) (t : Addr) (b : Addr) : (s.branchIf c t).instrAt b = s.instrAt b := by
  cases c <;> rfl

/-! ### writeLoadedAndBase: only registers and the draw counter can change -/

@[simp] theorem writeLoadedAndBase_pc (d r : RegNum) (w b : Word) : (s.writeLoadedAndBase d r w b).pc = s.pc := by
  unfold writeLoadedAndBase; split <;> rfl
@[simp] theorem writeLoadedAndBase_stat (d r : RegNum) (w b : Word) : (s.writeLoadedAndBase d r w b).stat = s.stat := by
  unfold writeLoadedAndBase; split <;> rfl
@[simp] theorem writeLoadedAndBase_imem (d r : RegNum) (w b : Word) : (s.writeLoadedAndBase d r w b).imem = s.imem := by
  unfold writeLoadedAndBase; split <;> rfl
@[simp] theorem writeLoadedAndBase_dmem (d r : RegNum) (w b : Word) : (s.writeLoadedAndBase d r w b).dmem = s.dmem := by
  unfold writeLoadedAndBase; split <;> rfl
@[simp] theorem writeLoadedAndBase_run (d r : RegNum) (w b : Word) : (s.writeLoadedAndBase d r w b).run = s.run := by
  unfold writeLoadedAndBase; split <;> rfl
@[simp] theorem writeLoadedAndBase_draws (d r : RegNum) (w b : Word) :
    (s.writeLoadedAndBase d r w b).draws = if d = r ∧ d ≠ 0#4 then s.draws + 1 else s.draws := by
  unfold writeLoadedAndBase; split <;> rfl
@[simp] theorem writeLoadedAndBase_dataAt (d r : RegNum) (w x : Word) (b : Addr) :
    (s.writeLoadedAndBase d r w x).dataAt b = s.dataAt b := by
  unfold writeLoadedAndBase; split <;> rfl
@[simp] theorem writeLoadedAndBase_instrAt (d r : RegNum) (w x : Word) (b : Addr) :
    (s.writeLoadedAndBase d r w x).instrAt b = s.instrAt b := by
  unfold writeLoadedAndBase; split <;> rfl

end Sys2Proof.Machine.State
end

