-- ==== Sys2Proof/Laws/Regs.lean ====
section
/-! SUPPORT. The laws of the register file: R0 reads zero, a write reaches its own register and no other. -/

namespace Sys2Proof.Machine

@[simp] theorem regGet_zero (f : Vector Word storedRegs) : regGet f 0#4 = 0#32 := rfl

@[simp] theorem regSet_zero (f : Vector Word storedRegs) (v : Word) : regSet f 0#4 v = f := rfl

theorem regGet_regSet_same (f : Vector Word storedRegs) {r : RegNum} (v : Word) (h : r ≠ 0#4) :
    regGet (regSet f r v) r = v := by
  simp [regGet, regSet, h]

theorem regGet_regSet_other (f : Vector Word storedRegs) {r q : RegNum} (v : Word) (h : q ≠ r) :
    regGet (regSet f r v) q = regGet f q := by
  unfold regGet regSet
  by_cases hq : q = 0#4
  · simp [hq]
  · by_cases hr : r = 0#4
    · simp [hq, hr]
    · have h0 : q.toNat ≠ 0 := fun e => hq (BitVec.eq_of_toNat_eq e)
      have h1 : r.toNat ≠ 0 := fun e => hr (BitVec.eq_of_toNat_eq e)
      have h2 : q.toNat ≠ r.toNat := fun e => h (BitVec.eq_of_toNat_eq e)
      have h3 : r.toNat - 1 ≠ q.toNat - 1 := by omega
      simp [hq, hr, h3]

namespace State

variable (s : State)

/-- R0 reads zero in every state (`10_state.md` R21). -/
@[simp] theorem readReg_zero : s.readReg 0#4 = 0#32 := rfl

/-- The same, where R0 is written `regZero`, as the definitions of instructions write it. -/
@[simp] theorem readReg_regZero : s.readReg regZero = 0#32 := rfl

/-- A write to R0 is discarded (R21). -/
@[simp] theorem writeReg_zero (v : Word) : s.writeReg 0#4 v = s := rfl

/-- What a register reads after a write of `r`, in one line. -/
theorem readReg_writeReg (r q : RegNum) (v : Word) :
    (s.writeReg r v).readReg q = if q = r ∧ r ≠ 0#4 then v else s.readReg q := by
  split
  · obtain ⟨rfl, h⟩ := ‹_›
    exact regGet_regSet_same s.regs v h
  · rename_i h
    by_cases hq : q = r
    · have hr : r = 0#4 := by
        by_contra hr
        exact h ⟨hq, hr⟩
      subst hr
      rfl
    · exact regGet_regSet_other s.regs v hq

theorem readReg_writeReg_same (r : RegNum) (v : Word) :
    (s.writeReg r v).readReg r = if r = 0#4 then 0#32 else v := by
  rw [readReg_writeReg]
  by_cases h : r = 0#4 <;> simp [h]

theorem readReg_writeReg_other {r q : RegNum} (v : Word) (h : q ≠ r) : (s.writeReg r v).readReg q = s.readReg q := by
  simp [readReg_writeReg, h]

/-- A register after an addition or subtraction reads as after the write of its result. -/
@[simp] theorem arith_readReg (r q : RegNum) (st : Status) (v : Word) :
    (s.arith r st v).readReg q = (s.writeReg r v).readReg q := rfl

/-- LDP and LDR with two different registers: the two writes in either order. -/
theorem writeLoadedAndBase_of_ne {d r : RegNum} (w b : Word) (h : d ≠ r) :
    s.writeLoadedAndBase d r w b = (s.writeReg d w).writeReg r b := by
  simp [writeLoadedAndBase, h]

/-- LDP and LDR with R0 twice: both writes are discarded (`42_load_store_swap.md` R150). -/
theorem writeLoadedAndBase_zero (w b : Word) : s.writeLoadedAndBase 0#4 0#4 w b = s := rfl

/-- LDP and LDR with one register other than R0 twice: a draw of the two values (R150). -/
theorem writeLoadedAndBase_same {r : RegNum} (w b : Word) (h : r ≠ 0#4) :
    s.writeLoadedAndBase r r w b =
      (s.writeReg r (if Config.keepsLoadedWord s.draws then w else b)).drawn := by
  simp [writeLoadedAndBase, h]

/-- What a register reads after the two writes of LDP or LDR, in one line. -/
theorem readReg_writeLoadedAndBase (d r q : RegNum) (w b : Word) : (s.writeLoadedAndBase d r w b).readReg q =
    if q = 0#4 then 0#32
    else if q = d ∧ q = r then (if Config.keepsLoadedWord s.draws then w else b)
    else if q = r then b
    else if q = d then w
    else s.readReg q := by
  by_cases hq : q = 0#4
  · subst hq
    simp
  by_cases h : d = r
  · subst h
    by_cases hd : d = 0#4
    · subst hd
      simp [writeLoadedAndBase_zero, hq]
    · by_cases hqd : q = d <;> simp [writeLoadedAndBase_same s w b hd, readReg_writeReg, hq, hqd]
      simp [hd]
  · rw [writeLoadedAndBase_of_ne s w b h]
    by_cases h1 : q = r <;> by_cases h2 : q = d
    · exact absurd (h2.symm.trans h1) h
    all_goals simp [readReg_writeReg, hq, h1, h2]
    all_goals simp_all

end State

end Sys2Proof.Machine
end

