-- ==== Sys2Proof/Laws/Ops.lean ====
section
/-! SUPPORT. One lemma for each shared operation that says once everything it can do. -/

namespace Sys2Proof.Machine

/-! ### andThen -/

@[simp] theorem andThen_next {α β : Type} (a : α) (k : α → Host.Outcome β Fault Refusal) :
    andThen (.next a) k = k a := rfl
@[simp] theorem andThen_fault {α β : Type} (f : Fault) (k : α → Host.Outcome β Fault Refusal) :
    andThen (.fault f) k = .fault f := rfl
@[simp] theorem andThen_refused {α β : Type} (r : Refusal) (k : α → Host.Outcome β Fault Refusal) :
    andThen (.refused r) k = .refused r := rfl

/-- A sequence goes on exactly when both parts do. -/
theorem andThen_eq_next {α β : Type} {o : Host.Outcome α Fault Refusal} {k : α → Host.Outcome β Fault Refusal} {b : β} :
    andThen o k = .next b ↔ ∃ a, o = .next a ∧ k a = .next b := by
  cases o <;> simp

/-! ### The default sizes leave no address out (`93_implementation_defined.md` U17) -/

theorem addr_lt_dmemWords (a : Addr) : a.toNat < settings.dmemWords := a.isLt
theorem addr_lt_imemWords (a : Addr) : a.toNat < settings.imemWords := a.isLt

/-- With `NREGS` = 16 every instruction is well formed. -/
theorem wellFormed_settings (i : Instr) : i.wellFormed settings = true := by
  simp only [Instr.wellFormed, List.all_eq_true]
  intro r _
  exact decide_eq_true r.isLt

/-! ### One word of data memory -/

/-- A load of a word that has a value. -/
theorem State.loadWord_some {s : State} {a : Addr} {w : Word} (h : s.dataAt a = some w) :
    s.loadWord a = .next w := by
  simp [State.loadWord, addr_lt_dmemWords, h]

/-- A load of a word that has none stops, naming the word and the instruction's address. -/
theorem State.loadWord_none {s : State} {a : Addr} (h : s.dataAt a = none) :
    s.loadWord a = .fault (.readBeforeWrite (.dataWord a) s.instrAddr) := by
  simp [State.loadWord, addr_lt_dmemWords, h, raiseFault]

theorem State.loadWord_eq_next {s : State} {a : Addr} {w : Word} :
    s.loadWord a = .next w ↔ s.dataAt a = some w := by
  cases h : s.dataAt a with
  | none => simp [State.loadWord_none h]
  | some v => simp [State.loadWord_some h]

/-- A store always completes. -/
@[simp] theorem State.storeWord_eq (s : State) (a : Addr) (v : Word) : s.storeWord a v = .next (s.putData a v) := by
  simp [State.storeWord, addr_lt_dmemWords]

/-! ### Fetch and decode -/

theorem State.fetchWord_some {s : State} {w : Word} (h : s.instrAt s.pc = some w) : s.fetchWord = .next w := by
  simp [State.fetchWord, addr_lt_imemWords, h]

theorem State.fetchWord_none {s : State} (h : s.instrAt s.pc = none) :
    s.fetchWord = .fault (.readBeforeWrite (.instructionWord s.pc) s.pc) := by
  simp [State.fetchWord, addr_lt_imemWords, h, raiseFault]

/-- Unused bits are ignored: the decoder answers what the decode tree answers (`30_encoding.md` R74). -/
theorem decode_eq_decodePattern (w : Word) : decode w = decodePattern w := by
  unfold decode
  split <;> simp_all [settings]

/-- The decode tree never complains of unused bits. -/
theorem decodePattern_ne_nonzeroUnusedBits (w : Word) : decodePattern w ≠ .error .nonzeroUnusedBits := by
  have ok : ∀ i : Instr, Except.ok i ≠ Except.error DecodeError.nonzeroUnusedBits := fun _ h => nomatch h
  have choose : ∀ (c : Prop) [Decidable c] (x y : Except DecodeError Instr), x ≠ .error .nonzeroUnusedBits →
      y ≠ .error .nonzeroUnusedBits → (if c then x else y) ≠ .error .nonzeroUnusedBits := by
    intro c _ x y hx hy
    split <;> assumption
  have op : Except.error (α := Instr) DecodeError.undefinedOpcode ≠ .error .nonzeroUnusedBits := fun h => nomatch h
  have mm : Except.error (α := Instr) DecodeError.undefinedMM ≠ .error .nonzeroUnusedBits := fun h => nomatch h
  have fn : Except.error (α := Instr) DecodeError.undefinedFunct ≠ .error .nonzeroUnusedBits := fun h => nomatch h
  simp only [decodePattern, decodeLoad, decodeStore, decodeAlu, decodeFunct]
  repeat' first | exact ok _ | exact op | exact mm | exact fn | apply choose

/-- With the default settings a rejected word is an illegal instruction, whatever the reason (R73). -/
theorem State.decodeFetched_error {s : State} {w : Word} {e : DecodeError} (h : decode w = .error e) :
    s.decodeFetched w = .fault (.illegalInstruction w s.pc) := by
  have hne : e ≠ .nonzeroUnusedBits := by
    rintro rfl
    exact decodePattern_ne_nonzeroUnusedBits w (decode_eq_decodePattern w ▸ h)
  unfold State.decodeFetched
  rw [h]
  cases e <;> first | rfl | exact absurd rfl hne

/-- With the default settings a decoded instruction is executed. -/
theorem State.decodeFetched_ok {s : State} {w : Word} {i : Instr} (h : decode w = .ok i) :
    s.decodeFetched w = .next i := by
  simp [State.decodeFetched, h, wellFormed_settings]

end Sys2Proof.Machine
end

