-- ==== Sys2Proof/Laws/Exec.lean ====
section
/-! SUPPORT. Each meaning as one equation over the shared operations, and what a step can do, so that later proofs
unfold neither. -/

namespace Sys2Proof.Machine

variable (s : State)

/-! ### Meanings that always complete -/

theorem exec_nop : exec .nop s = .next s := rfl
theorem exec_hlt : exec .hlt s = .next s.halt := rfl
theorem exec_adi (rd rs : RegNum) (imm : Imm) : exec (.adi rd rs imm) s =
    .next (s.arith rd (if settings.adiWritesStatus then addStatus (s.readReg rs) (sext32 imm) else s.stat)
      (s.readReg rs + sext32 imm)) := rfl
theorem exec_add (rd rs rt : RegNum) : exec (.add rd rs rt) s =
    .next (s.arith rd (addStatus (s.readReg rs) (s.readReg rt)) (s.readReg rs + s.readReg rt)) := rfl
theorem exec_sub (rd rs rt : RegNum) : exec (.sub rd rs rt) s =
    .next (s.arith rd (subStatus (s.readReg rs) (s.readReg rt)) (s.readReg rs - s.readReg rt)) := rfl
theorem exec_not (rd rs : RegNum) : exec (.not rd rs) s = .next (s.logic rd (~~~s.readReg rs)) := rfl
theorem exec_or (rd rs rt : RegNum) :
    exec (.or rd rs rt) s = .next (s.logic rd (s.readReg rs ||| s.readReg rt)) := rfl
theorem exec_and (rd rs rt : RegNum) :
    exec (.and rd rs rt) s = .next (s.logic rd (s.readReg rs &&& s.readReg rt)) := rfl
theorem exec_xor (rd rs rt : RegNum) :
    exec (.xor rd rs rt) s = .next (s.logic rd (s.readReg rs ^^^ s.readReg rt)) := rfl
theorem exec_rtr (rd rs rt : RegNum) :
    exec (.rtr rd rs rt) s = .next (s.logic rd ((s.readReg rs).rotateRight (s.shiftCount rt))) := rfl
theorem exec_rtl (rd rs rt : RegNum) :
    exec (.rtl rd rs rt) s = .next (s.logic rd ((s.readReg rs).rotateLeft (s.shiftCount rt))) := rfl
theorem exec_shr (rd rs rt : RegNum) : exec (.shr rd rs rt) s =
    .next (s.logic rd (shiftRight settings.shrFill (s.readReg rs) (s.shiftCount rt))) := rfl
theorem exec_shl (rd rs rt : RegNum) :
    exec (.shl rd rs rt) s = .next (s.logic rd (s.readReg rs <<< s.shiftCount rt)) := rfl
theorem exec_bra (cc : CondMask) (t : Imm) :
    exec (.bra cc t) s = .next (s.branchIf (condHit cc s.stat) (absoluteAddr t)) := rfl
theorem exec_brr (cc : CondMask) (o : Imm) :
    exec (.brr cc o) s = .next (s.branchIf (condHit cc s.stat) (s.relativeTarget o)) := rfl
theorem exec_bne (cc : CondMask) (t : Imm) :
    exec (.bne cc t) s = .next (s.branchIf (!condHit cc s.stat) (absoluteAddr t)) := rfl
theorem exec_bnr (cc : CondMask) (o : Imm) :
    exec (.bnr cc o) s = .next (s.branchIf (!condHit cc s.stat) (s.relativeTarget o)) := rfl
theorem exec_stx (rd rs : RegNum) (imm : Imm) :
    exec (.stx rd rs imm) s = .next (s.putData (s.indexedAddr rs imm) (s.readReg rd)) := by
  simp [exec, execStx]
theorem exec_sta (rd : RegNum) (imm : Imm) :
    exec (.sta rd imm) s = .next (s.putData (absoluteAddr imm) (s.readReg rd)) := by
  simp [exec, execSta]
theorem exec_stp (rd rs : RegNum) (imm : Imm) : exec (.stp rd rs imm) s =
    .next ((s.putData (s.indexedAddr rs imm) (s.readReg rd)).writeReg rs (s.baseSum rs imm)) := by
  simp [exec, execStp]
theorem exec_str (rd rs : RegNum) (imm : Imm) : exec (.str rd rs imm) s =
    .next ((s.putData (s.registerAddr rs) (s.readReg rd)).writeReg rs (s.baseSum rs imm)) := by
  simp [exec, execStr]
theorem exec_swp (rd rs : RegNum) :
    exec (.swp rd rs) s = .next ((s.writeReg rs (s.readReg rd)).writeReg rd (s.readReg rs)) := rfl

/-! ### Loads -/

theorem exec_ldx (rd rs : RegNum) (imm : Imm) : exec (.ldx rd rs imm) s =
    andThen (s.loadWord (s.indexedAddr rs imm)) fun w => .next (s.writeReg rd w) := rfl
theorem exec_lda (rd : RegNum) (imm : Imm) : exec (.lda rd imm) s =
    andThen (s.loadWord (absoluteAddr imm)) fun w => .next (s.writeReg rd w) := rfl
theorem exec_ldp (rd rs : RegNum) (imm : Imm) : exec (.ldp rd rs imm) s =
    andThen (s.loadWord (s.indexedAddr rs imm)) fun w => .next (s.writeLoadedAndBase rd rs w (s.baseSum rs imm)) := rfl
theorem exec_ldr (rd rs : RegNum) (imm : Imm) : exec (.ldr rd rs imm) s =
    andThen (s.loadWord (s.registerAddr rs)) fun w => .next (s.writeLoadedAndBase rd rs w (s.baseSum rs imm)) := rfl

/-! ### What a step that answers a next state did -/

variable {s}

theorem fetchInstr_cases {i : Instr} (h : s.fetchInstr = .next i) :
    ∃ w, s.instrAt s.pc = some w ∧ decode w = .ok i := by
  obtain ⟨w, hw, hi⟩ := andThen_eq_next.mp h
  refine ⟨w, ?_, ?_⟩
  · cases hs : s.instrAt s.pc with
    | none => simp [State.fetchWord_none hs] at hw
    | some v => rw [State.fetchWord_some hs] at hw; cases hw; rfl
  · unfold State.decodeFetched at hi
    split at hi
    · cases hi
    · cases hi
    · split at hi
      · cases hi; assumption
      · cases hi

/-- A step that answers a next state either found the machine halted and left it as it was, or ran the instruction
it fetched and decoded. -/
theorem step_cases {t : State} (h : step s = .next t) :
    (s.run = .halted ∧ t = s) ∨
    (s.run = .running ∧ ∃ w i, s.instrAt s.pc = some w ∧ decode w = .ok i ∧ exec i s.advance = .next t) := by
  unfold step State.cycle at h
  split at h
  · cases h
    exact .inl ⟨‹_›, rfl⟩
  · obtain ⟨i, hi, he⟩ := andThen_eq_next.mp h
    obtain ⟨w, hw, hd⟩ := fetchInstr_cases hi
    exact .inr ⟨‹_›, w, i, hw, hd, he⟩

end Sys2Proof.Machine
end

