-- ==== Sys2Proof/Laws/PerInstr.lean ====
section
/-! SUPPORT. Statements about every instruction as syntax, one lemma per constructor. -/

namespace Sys2Proof.Laws

/-! ### The fields of a format leave the unused bits zero (`30_encoding.md` R63, R64, R65, R74) -/

theorem format1_unused (f : BitVec 4) (rd rs rt : RegNum) : format1 f rd rs rt &&& 0x00000FF0#32 = 0#32 := by
  apply BitVec.eq_of_getLsbD_eq
  intro k hk
  simp only [format1_eq]
  interval_cases k <;> simp

theorem format1_unused_rt (f : BitVec 4) (rd rs : RegNum) : format1 f rd rs 0#4 &&& 0x0000FFF0#32 = 0#32 := by
  apply BitVec.eq_of_getLsbD_eq
  intro k hk
  simp only [format1_eq]
  interval_cases k <;> simp

theorem format2_unused_rs (op mm : BitVec 4) (rd : RegNum) (imm : Imm) :
    format2 op mm rd 0#4 imm &&& 0x000F0000#32 = 0#32 := by
  apply BitVec.eq_of_getLsbD_eq
  intro k hk
  simp only [format2_eq]
  interval_cases k <;> simp

theorem format2_unused_mm_imm (op : BitVec 4) (rd rs : RegNum) :
    format2 op 0#4 rd rs 0#16 &&& 0x0F00FFFF#32 = 0#32 := by
  apply BitVec.eq_of_getLsbD_eq
  intro k hk
  simp only [format2_eq]
  interval_cases k <;> simp

theorem format3_unused (op : BitVec 4) (cc : CondMask) (imm : Imm) : format3 op cc imm &&& 0x00FF0000#32 = 0#32 := by
  apply BitVec.eq_of_getLsbD_eq
  intro k hk
  simp only [format3_eq]
  interval_cases k <;> simp

namespace CanonicalWord

/-- The canonical encoding has zeros in every unused field (R74). -/
def Statement (i : Instr) : Prop := encode i &&& i.unusedBits = 0#32

theorem nop : Statement .nop := by unfold Statement; decide
theorem hlt : Statement .hlt := by unfold Statement; decide
theorem adi (rd rs : RegNum) (imm : Imm) : Statement (.adi rd rs imm) := by
  rw [Statement, unusedBits_adi]; exact BitVec.and_zero
theorem ldx (rd rs : RegNum) (imm : Imm) : Statement (.ldx rd rs imm) := by
  rw [Statement, unusedBits_ldx]; exact BitVec.and_zero
theorem ldp (rd rs : RegNum) (imm : Imm) : Statement (.ldp rd rs imm) := by
  rw [Statement, unusedBits_ldp]; exact BitVec.and_zero
theorem ldr (rd rs : RegNum) (imm : Imm) : Statement (.ldr rd rs imm) := by
  rw [Statement, unusedBits_ldr]; exact BitVec.and_zero
theorem stx (rd rs : RegNum) (imm : Imm) : Statement (.stx rd rs imm) := by
  rw [Statement, unusedBits_stx]; exact BitVec.and_zero
theorem stp (rd rs : RegNum) (imm : Imm) : Statement (.stp rd rs imm) := by
  rw [Statement, unusedBits_stp]; exact BitVec.and_zero
theorem str (rd rs : RegNum) (imm : Imm) : Statement (.str rd rs imm) := by
  rw [Statement, unusedBits_str]; exact BitVec.and_zero
theorem add (rd rs rt : RegNum) : Statement (.add rd rs rt) := by
  rw [Statement, unusedBits_add]; exact format1_unused _ _ _ _
theorem sub (rd rs rt : RegNum) : Statement (.sub rd rs rt) := by
  rw [Statement, unusedBits_sub]; exact format1_unused _ _ _ _
theorem or (rd rs rt : RegNum) : Statement (.or rd rs rt) := by
  rw [Statement, unusedBits_or]; exact format1_unused _ _ _ _
theorem and (rd rs rt : RegNum) : Statement (.and rd rs rt) := by
  rw [Statement, unusedBits_and]; exact format1_unused _ _ _ _
theorem xor (rd rs rt : RegNum) : Statement (.xor rd rs rt) := by
  rw [Statement, unusedBits_xor]; exact format1_unused _ _ _ _
theorem rtr (rd rs rt : RegNum) : Statement (.rtr rd rs rt) := by
  rw [Statement, unusedBits_rtr]; exact format1_unused _ _ _ _
theorem rtl (rd rs rt : RegNum) : Statement (.rtl rd rs rt) := by
  rw [Statement, unusedBits_rtl]; exact format1_unused _ _ _ _
theorem shr (rd rs rt : RegNum) : Statement (.shr rd rs rt) := by
  rw [Statement, unusedBits_shr]; exact format1_unused _ _ _ _
theorem shl (rd rs rt : RegNum) : Statement (.shl rd rs rt) := by
  rw [Statement, unusedBits_shl]; exact format1_unused _ _ _ _
theorem not (rd rs : RegNum) : Statement (.not rd rs) := by
  rw [Statement, unusedBits_not]; exact format1_unused_rt _ _ _
theorem bra (cc : CondMask) (imm : Imm) : Statement (.bra cc imm) := by
  rw [Statement, unusedBits_bra]; exact format3_unused _ _ _
theorem brr (cc : CondMask) (imm : Imm) : Statement (.brr cc imm) := by
  rw [Statement, unusedBits_brr]; exact format3_unused _ _ _
theorem bne (cc : CondMask) (imm : Imm) : Statement (.bne cc imm) := by
  rw [Statement, unusedBits_bne]; exact format3_unused _ _ _
theorem bnr (cc : CondMask) (imm : Imm) : Statement (.bnr cc imm) := by
  rw [Statement, unusedBits_bnr]; exact format3_unused _ _ _
theorem lda (rd : RegNum) (imm : Imm) : Statement (.lda rd imm) := by
  rw [Statement, unusedBits_lda]; exact format2_unused_rs _ _ _ _
theorem sta (rd : RegNum) (imm : Imm) : Statement (.sta rd imm) := by
  rw [Statement, unusedBits_sta]; exact format2_unused_rs _ _ _ _
theorem swp (rd rs : RegNum) : Statement (.swp rd rs) := by
  rw [Statement, unusedBits_swp]; exact format2_unused_mm_imm _ _ _

end CanonicalWord

end Sys2Proof.Laws
end

