-- ==== Sys2Proof/Tests/Slice0.lean ====
section
/-! SUPPORT. Tests by evaluation, each expected value taken from the spec's examples (the rule or the vector of
`95_test_vectors.md` is named), and for each statement with hypotheses a witness that meets them. -/

namespace Sys2Proof.Tests

open Sys2Proof Sys2Proof.Machine

/-! ### WellFormed refuses what each check is for -/

/-- A machine with eight registers (`92_eei_decisions.md` D2). -/
def eightRegs : Config := { settings with nregs := 8 }

theorem test_wellFormed_refuses_rd : Instr.wellFormed eightRegs (.add 8 1 2) = false := by decide
theorem test_wellFormed_refuses_rs : Instr.wellFormed eightRegs (.ldx 1 15 0) = false := by decide
theorem test_wellFormed_refuses_rt : Instr.wellFormed eightRegs (.shl 1 2 9) = false := by decide
theorem test_wellFormed_accepts : Instr.wellFormed eightRegs (.add 7 0 2) = true := by decide
theorem test_wellFormed_sixteen : Instr.wellFormed settings (.add 15 15 15) = true := by decide

/-! ### Every constructor's decoding, from the word the spec writes out, bit by bit -/

/-- R160. -/
theorem test_decode_nop : decode 0b0000_0000_0000_0000_0000_0000_0000_0000#32 = .ok (.nop) := by rfl
/-- R105. -/
theorem test_decode_adi : decode 0b1000_1000_0001_0010_1111_1111_1111_1110#32 = .ok (.adi 1 2 0xFFFE) := by rfl
/-- R106. -/
theorem test_decode_add : decode 0b1000_0000_0001_0010_0011_0000_0000_0001#32 = .ok (.add 1 2 3) := by rfl
/-- R107. -/
theorem test_decode_sub : decode 0b1000_0000_0001_0010_0011_0000_0000_0010#32 = .ok (.sub 1 2 3) := by rfl
/-- R108. -/
theorem test_decode_not : decode 0b1000_0000_0001_0010_0000_0000_0000_0100#32 = .ok (.not 1 2) := by rfl
/-- R109. -/
theorem test_decode_or : decode 0b1000_0000_0001_0010_0011_0000_0000_0101#32 = .ok (.or 1 2 3) := by rfl
/-- R110. -/
theorem test_decode_and : decode 0b1000_0000_0001_0010_0011_0000_0000_0110#32 = .ok (.and 1 2 3) := by rfl
/-- R111. -/
theorem test_decode_xor : decode 0b1000_0000_0001_0010_0011_0000_0000_0111#32 = .ok (.xor 1 2 3) := by rfl
/-- R112. -/
theorem test_decode_rtr : decode 0b1000_0000_0001_0010_0011_0000_0000_1000#32 = .ok (.rtr 1 2 3) := by rfl
/-- R113. -/
theorem test_decode_rtl : decode 0b1000_0000_0001_0010_0011_0000_0000_1001#32 = .ok (.rtl 1 2 3) := by rfl
/-- R114. -/
theorem test_decode_shr : decode 0b1000_0000_0001_0010_0011_0000_0000_1010#32 = .ok (.shr 1 2 3) := by rfl
/-- R115. -/
theorem test_decode_shl : decode 0b1000_0000_0001_0010_0011_0000_0000_1011#32 = .ok (.shl 1 2 3) := by rfl
/-- R132. -/
theorem test_decode_bra : decode 0b0100_0011_0000_0000_0000_0000_0001_0000#32 = .ok (.bra 0b0011 0x0010) := by rfl
/-- R133. -/
theorem test_decode_brr : decode 0b0101_0011_0000_0000_1111_1111_1111_1110#32 = .ok (.brr 0b0011 0xFFFE) := by rfl
/-- R134. -/
theorem test_decode_bne : decode 0b0110_0010_0000_0000_0000_0000_0001_0000#32 = .ok (.bne 0b0010 0x0010) := by rfl
/-- R135. -/
theorem test_decode_bnr : decode 0b0111_0000_0000_0000_0000_0000_0000_0101#32 = .ok (.bnr 0b0000 0x0005) := by rfl
/-- R142. -/
theorem test_decode_ldx : decode 0b0001_1000_0001_0010_0000_0000_0000_0100#32 = .ok (.ldx 1 2 0x0004) := by rfl
/-- R143. -/
theorem test_decode_lda : decode 0b0001_0000_0001_0000_0000_0001_0000_0000#32 = .ok (.lda 1 0x0100) := by rfl
/-- R144. -/
theorem test_decode_ldp : decode 0b0001_1001_0001_0010_1111_1111_1111_1111#32 = .ok (.ldp 1 2 0xFFFF) := by rfl
/-- R145. -/
theorem test_decode_ldr : decode 0b0001_0001_0001_0010_0000_0000_0000_0001#32 = .ok (.ldr 1 2 0x0001) := by rfl
/-- R146. -/
theorem test_decode_stx : decode 0b0010_1000_0001_0010_0000_0000_0000_0100#32 = .ok (.stx 1 2 0x0004) := by rfl
/-- R147. -/
theorem test_decode_sta : decode 0b0010_0000_0001_0000_0000_0001_0000_0000#32 = .ok (.sta 1 0x0100) := by rfl
/-- R148. -/
theorem test_decode_stp : decode 0b0010_1001_0001_0010_1111_1111_1111_1111#32 = .ok (.stp 1 2 0xFFFF) := by rfl
/-- R149. -/
theorem test_decode_str : decode 0b0010_0001_0001_0010_0000_0000_0000_0001#32 = .ok (.str 1 2 0x0001) := by rfl
/-- R152. -/
theorem test_decode_swp : decode 0b0011_0000_0001_0010_0000_0000_0000_0000#32 = .ok (.swp 1 2) := by rfl
/-- R161. -/
theorem test_decode_hlt : decode 0b1111_0000_0000_0000_0000_0000_0000_0000#32 = .ok (.hlt) := by rfl

/-- R61, R71, column Format; R60: the fields of Format 2 fill the word. -/
theorem test_formats :
    (Instr.shl 1 2 3).format = .one ∧ (Instr.not 1 2).format = .one ∧ (Instr.adi 1 2 3).format = .two ∧
    (Instr.sta 1 2).format = .two ∧ (Instr.swp 1 2).format = .two ∧ (Instr.brr 1 2).format = .three ∧
    Instr.nop.format = .three ∧ Instr.hlt.format = .three ∧
    (Format.two.fields.map BitField.width).sum = layout.ilen := by decide

/-- The canonical words come back from the encoder. -/
theorem test_encode :
    encode (.adi 1 2 0xFFFE) = 0x8812FFFE#32 ∧ encode (.shl 1 2 3) = 0x8012300B#32 ∧
    encode (.bnr 0 5) = 0x70000005#32 ∧ encode (.lda 1 0x0100) = 0x10100100#32 ∧
    encode (.stp 1 2 0xFFFF) = 0x2912FFFF#32 ∧ encode (.swp 1 2) = 0x30120000#32 ∧ encode .hlt = 0xF0000000#32 := by
  decide

/-- V9: unused bits are ignored. -/
theorem test_decode_ignores_unused :
    decode 0x0FFFFFFF#32 = .ok .nop ∧ decode 0xFABCDEF0#32 = .ok .hlt ∧ decode 0x80123FF1#32 = .ok (.add 1 2 3) ∧
    decode 0x43FF0010#32 = .ok (.bra 3 0x10) ∧ decode 0x3F12ABCD#32 = .ok (.swp 1 2) ∧
    decode 0x8012F004#32 = .ok (.not 1 2) ∧ decode 0x101FFFFF#32 = .ok (.lda 1 0xFFFF) :=
  ⟨rfl, rfl, rfl, rfl, rfl, rfl, rfl⟩

/-- V9: undefined words. -/
theorem test_decode_undefined :
    decode 0x90000000#32 = .error .undefinedOpcode ∧ decode 0xE0000000#32 = .error .undefinedOpcode ∧
    decode 0x80000000#32 = .error .undefinedFunct ∧ decode 0x80000003#32 = .error .undefinedFunct ∧
    decode 0x8000000F#32 = .error .undefinedFunct ∧ decode 0x81000001#32 = .error .undefinedMM ∧
    decode 0x89000000#32 = .error .undefinedMM ∧ decode 0x12000000#32 = .error .undefinedMM ∧
    decode 0x2A000000#32 = .error .undefinedMM := ⟨rfl, rfl, rfl, rfl, rfl, rfl, rfl, rfl, rfl⟩

/-- V9: of the 4096 combinations of opcode, MM and funct, 1946 select an instruction. -/
theorem test_decode_count :
    ((List.range 4096).filter fun k =>
      (decode (BitVec.ofNat 32 (k / 16 * 0x1000000 + k % 16))).toOption.isSome).length = 1946 := by
  decide +kernel

/-- The host's numbering: bits above `nbits` are zero. -/
theorem test_decodeTableWord : decodeTableWord 32 0x80123001 = some (.add 1 2 3) ∧ decodeTableWord 32 0x90000000 = none := by
  decide

/-- R77: the text of an instruction. -/
theorem test_text : (Instr.adi 1 0 0xFFFD).text = "ADI R1,R0,0xFFFD".toList ∧
    (Instr.bra 0b0011 0x0010).text = "BRA 0011,0x0010".toList ∧ (Instr.swp 10 15).text = "SWP R10,R15".toList := by
  decide

/-- E5: the words of the pseudo-instructions. -/
theorem test_pseudo_words :
    encode (.clr 3) = 0x80300001#32 ∧ encode (.lri 3 0x1234) = 0x88301234#32 ∧ encode (.inc 3) = 0x88330001#32 ∧
    encode (.dec 3) = 0x8833FFFF#32 ∧ encode (.sti 3 5) = 0x28350000#32 ∧ encode (.ldi 3 5) = 0x18350000#32 ∧
    encode (.neg 3) = 0x80303002#32 := by decide

/-! ### One step -/

/-- The state after reset with these registers, this status, these data words and this PC. -/
def start (regs : List (RegNum × Word)) (stat : Status := 0) (data : List (Addr × Word) := []) (pc : Addr := 0) : State :=
  data.foldl (fun s p => s.putData p.1 p.2)
    (regs.foldl (fun s p => s.writeReg p.1 p.2) { State.reset with stat := stat, pc := pc })

/-- One step of the word placed at the PC answers a next state, and it passes the check. -/
def stepGives (s : State) (w : Nat) (check : State → Bool) : Bool :=
  match step (s.withFetchWord 32 w) with
  | .next t => check t
  | _ => false

/-- One step of the word placed at the PC stops with this fault. -/
def stepFaults (s : State) (w : Nat) (f : Fault) : Bool :=
  match step (s.withFetchWord 32 w) with
  | .fault g => g == f
  | _ => false

/-- R160: NOP at 0x0004. -/
theorem test_nop : stepGives (start [(1, 7)] (stat := 0b1010) (pc := 0x0004)) 0x00000000
    (fun t => t.pc == 0x0005 && t.stat == 0b1010 && t.readReg 1 == 7 && t.run == .running) = true := by decide
/-- R161: HLT at 0x0007. -/
theorem test_hlt : stepGives (start [] (pc := 0x0007)) 0xF0000000
    (fun t => t.pc == 0x0008 && t.run == .halted) = true := by decide
/-- R161: HLT at 0xFFFF. -/
theorem test_hlt_wraps : stepGives (start [] (pc := 0xFFFF)) 0xF0000000
    (fun t => t.pc == 0x0000 && t.run == .halted) = true := by decide
/-- V3: DEC underflows. -/
theorem test_adi : stepGives (start [(2, 0x80000000)]) 0x8812FFFF
    (fun t => t.readReg 1 == 0x7FFFFFFF && t.stat == 0b1110) = true := by decide
/-- V3: 5 - 2 as an addition carries. -/
theorem test_adi_carry : stepGives (start [(2, 5)]) 0x8812FFFE
    (fun t => t.readReg 1 == 3 && t.stat == 0b1000) = true := by decide
/-- V1: all four bits. -/
theorem test_add_all_four : stepGives (start [(2, 0x80000000), (3, 0x80000000)]) 0x80123001
    (fun t => t.readReg 1 == 0 && t.stat == 0b1111) = true := by decide
/-- V1: destination R0 still sets STAT. -/
theorem test_add_r0 : stepGives (start [(2, 0xFFFFFFFF), (3, 1)]) 0x80023001
    (fun t => t.readReg 0 == 0 && t.readReg 2 == 0xFFFFFFFF && t.stat == 0b1001) = true := by decide
/-- V2: 1 - (-1), borrow, positive. -/
theorem test_sub_borrow : stepGives (start [(2, 1), (3, 0xFFFFFFFF)]) 0x80123002
    (fun t => t.readReg 1 == 2 && t.stat == 0b1000) = true := by decide
/-- V2: overflow, N = 0. -/
theorem test_sub_overflow : stepGives (start [(2, 0x7FFFFFFF), (3, 0xFFFFFFFF)]) 0x80123002
    (fun t => t.readReg 1 == 0x80000000 && t.stat == 0b1100) = true := by decide
/-- V4: the Rt field is not read. -/
theorem test_not : stepGives (start [(2, 0), (15, 9)] (stat := 0b0101)) 0x8012F004
    (fun t => t.readReg 1 == 0xFFFFFFFF && t.stat == 0b0101) = true := by decide
/-- V4. -/
theorem test_or : stepGives (start [(2, 0x0F0F0000), (3, 0x00FF00FF)] (stat := 0b0101)) 0x80123005
    (fun t => t.readReg 1 == 0x0FFF00FF && t.stat == 0b0101) = true := by decide
/-- V4. -/
theorem test_and : stepGives (start [(2, 0x0F0F0000), (3, 0x00FF00FF)] (stat := 0b0101)) 0x80123006
    (fun t => t.readReg 1 == 0x000F0000 && t.stat == 0b0101) = true := by decide
/-- V4. -/
theorem test_xor : stepGives (start [(2, 0x0F0F0000), (3, 0x00FF00FF)] (stat := 0b0101)) 0x80123007
    (fun t => t.readReg 1 == 0x0FF000FF && t.stat == 0b0101) = true := by decide
/-- V5. -/
theorem test_rtr : stepGives (start [(2, 0x12345678), (3, 4)] (stat := 0b0101)) 0x80123008
    (fun t => t.readReg 1 == 0x81234567 && t.stat == 0b0101) = true := by decide
/-- V5: count 0xFFFFFFFF. -/
theorem test_rtr_wide_count : stepGives (start [(2, 0x12345678), (3, 0xFFFFFFFF)]) 0x80123008
    (fun t => t.readReg 1 == 0x2468ACF0) = true := by decide
/-- V5. -/
theorem test_rtl : stepGives (start [(2, 0x12345678), (3, 4)] (stat := 0b0101)) 0x80123009
    (fun t => t.readReg 1 == 0x23456781 && t.stat == 0b0101) = true := by decide
/-- V5. -/
theorem test_shr : stepGives (start [(2, 0xF0000000), (3, 4)] (stat := 0b0101)) 0x8012300A
    (fun t => t.readReg 1 == 0x0F000000 && t.stat == 0b0101) = true := by decide
/-- V5: count 32 shifts by 0 under the default. -/
theorem test_shr_count_32 : stepGives (start [(2, 0x80000001), (3, 32)]) 0x8012300A
    (fun t => t.readReg 1 == 0x80000001) = true := by decide
/-- V5. -/
theorem test_shl : stepGives (start [(2, 0x80000001), (3, 1)] (stat := 0b0101)) 0x8012300B
    (fun t => t.readReg 1 == 0x00000002 && t.stat == 0b0101) = true := by decide
/-- V7. -/
theorem test_bra_taken : stepGives (start [] (stat := 0b0001) (pc := 0x0002)) 0x43000010
    (fun t => t.pc == 0x0010 && t.stat == 0b0001) = true := by decide
/-- V7. -/
theorem test_bra_falls : stepGives (start [] (stat := 0b1100) (pc := 0x0002)) 0x43000010
    (fun t => t.pc == 0x0003) = true := by decide
/-- V7. -/
theorem test_brr_taken : stepGives (start [] (stat := 0b0010) (pc := 0x0008)) 0x5300FFFE
    (fun t => t.pc == 0x0007) = true := by decide
/-- V7. -/
theorem test_bne_taken : stepGives (start [] (stat := 0b0001) (pc := 0x0002)) 0x62000010
    (fun t => t.pc == 0x0010) = true := by decide
/-- R134: STAT = 1010. -/
theorem test_bne_falls : stepGives (start [] (stat := 0b1010) (pc := 0x0002)) 0x62000010
    (fun t => t.pc == 0x0003) = true := by decide
/-- V7: BNR at 0xFFFF wraps. -/
theorem test_bnr_wraps : stepGives (start [] (pc := 0xFFFF)) 0x70000001
    (fun t => t.pc == 0x0001) = true := by decide
/-- V7: offset 0x8000. -/
theorem test_bnr_negative : stepGives (start [] (pc := 0x0010)) 0x70008000
    (fun t => t.pc == 0x8011) = true := by decide
/-- V8: the address wraps. -/
theorem test_ldx_wraps : stepGives (start [(2, 0x0000FFFF)] (stat := 0b0101) (data := [(0x0000, 0x42)])) 0x18120001
    (fun t => t.readReg 1 == 0x42 && t.stat == 0b0101 && t.pc == 1) = true := by decide
/-- V8: Rd = Rs. -/
theorem test_ldx_same : stepGives (start [(1, 0x100)] (data := [(0x0100, 7)])) 0x18110000
    (fun t => t.readReg 1 == 7) = true := by decide
/-- V8: the Rs field is not read. -/
theorem test_lda : stepGives (start [] (data := [(0xFFFF, 1)])) 0x101FFFFF
    (fun t => t.readReg 1 == 1) = true := by decide
/-- V8. -/
theorem test_ldp : stepGives (start [(2, 0x00010000)] (data := [(0xFFFF, 0x66)])) 0x1912FFFF
    (fun t => t.readReg 1 == 0x66 && t.readReg 2 == 0x0000FFFF) = true := by decide
/-- V8: only the base changes. -/
theorem test_ldp_r0 : stepGives (start [(2, 0x10)] (data := [(0x0012, 1)])) 0x19020002
    (fun t => t.readReg 0 == 0 && t.readReg 2 == 0x12) = true := by decide
/-- V8: the base goes below zero. -/
theorem test_ldr : stepGives (start [(2, 0)] (data := [(0x0000, 0x22)])) 0x1112FFFF
    (fun t => t.readReg 1 == 0x22 && t.readReg 2 == 0xFFFFFFFF) = true := by decide
/-- V8. -/
theorem test_stx : stepGives (start [(1, 0xDEADBEEF), (2, 0x100)]) 0x28120004
    (fun t => t.dataAt 0x0104 == some 0xDEADBEEF && t.readReg 2 == 0x100) = true := by decide
/-- V8: R0 stores zero. -/
theorem test_stx_r0 : stepGives (start [(2, 0x100)] (data := [(0x0100, 5)])) 0x28020000
    (fun t => t.dataAt 0x0100 == some 0) = true := by decide
/-- V8. -/
theorem test_sta : stepGives (start [(1, 15)]) 0x20100100
    (fun t => t.dataAt 0x0100 == some 15) = true := by decide
/-- V8: push. -/
theorem test_stp : stepGives (start [(1, 7), (2, 0xFFFF8000)]) 0x2912FFFF
    (fun t => t.dataAt 0x7FFF == some 7 && t.readReg 2 == 0xFFFF7FFF) = true := by decide
/-- V8: Rd = Rs stores the old base. -/
theorem test_stp_same : stepGives (start [(1, 0x100)]) 0x2911FFFF
    (fun t => t.dataAt 0x00FF == some 0x100 && t.readReg 1 == 0xFF) = true := by decide
/-- V8. -/
theorem test_str : stepGives (start [(1, 0x11), (2, 0x200)]) 0x21120001
    (fun t => t.dataAt 0x0200 == some 0x11 && t.readReg 2 == 0x201) = true := by decide
/-- V8: Rd = Rs stores the old base. -/
theorem test_str_same : stepGives (start [(1, 0x200)]) 0x21110001
    (fun t => t.dataAt 0x0200 == some 0x200 && t.readReg 1 == 0x201) = true := by decide
/-- V8. -/
theorem test_swp : stepGives (start [(1, 7), (2, 0xFFFFFFFD)]) 0x30120000
    (fun t => t.readReg 1 == 0xFFFFFFFD && t.readReg 2 == 7) = true := by decide
/-- V8: SWP R1,R0 clears R1. -/
theorem test_swp_r0 : stepGives (start [(1, 7)]) 0x30100000
    (fun t => t.readReg 1 == 0 && t.readReg 0 == 0) = true := by decide
/-- R150: with Rd = Rs the machine goes on, and one draw is made. -/
theorem test_ldr_own_base : stepGives (start [(3, 0)] (data := [(0x0000, 9)])) 0x11330001
    (fun t => t.draws == 1 && t.pc == 1) = true := by decide

/-- R191: a load of a data word that has no value; the instruction is at 0x0005. -/
theorem test_load_unwritten :
    stepFaults (start [(2, 0x100)] (pc := 5)) 0x18120004 (.readBeforeWrite (.dataWord 0x0104) 0x0005) = true := by decide

/-- P6: an undefined word at 0x0001. -/
theorem test_illegal :
    stepFaults (start [(1, 1)] (pc := 1)) 0x90000000 (.illegalInstruction 0x90000000 0x0001) = true := by decide

/-- R191, R43: a fetch of a word that was not loaded. -/
theorem test_fetch_unloaded :
    step State.reset = .fault (.readBeforeWrite (.instructionWord 0x0000) 0x0000) := rfl

/-- R183, R193: a loaded program's second word is at address 0x0001. -/
theorem test_loadProgram : ((State.reset.loadProgram [0x88100001, 0xF0000000]).instrAt 1) = some 0xF0000000 := by decide

/-- R49, U16: where the two memories are one, a load finds the image's word until a store lies over it, and a fetch is
refused from the address stored to and from no other, until the next run begins. -/
theorem test_unified_memory :
    findData true [(5, 0xA)] [] 5 = some 0xA ∧ findData true [(5, 0xA)] [(5, 0xB)] 5 = some 0xB ∧
    fetchRefused true [(5, 0xB)] 5 = true ∧ fetchRefused true [(5, 0xB)] 6 = false ∧
    ((start [] (data := [(5, 0xB)])).beginRun true).imem = [(5, 0xB)] := by decide

/-- R190, R192: reset of a halted machine. -/
theorem test_applyReset :
    ((start [(1, 7)] (data := [(3, 4)]) (pc := 9)).halt.applyReset.run, (start [] (data := [(3, 4)])).applyReset.dataAt 3) =
      (.running, some 4) := by decide

/-! ### Witnesses: states and operands that meet the hypotheses of the statements -/

theorem witness_EncodeInvertsDecodeOnUsedFields : decode 0x80123FF1#32 = .ok (.add 1 2 3) := rfl

theorem witness_MatchAndMaskSelectTheInstruction :
    0x00000000#32 &&& 0xF0000000#32 = 0x00000000#32 ∧
    0x8812FFFE#32 &&& 0xFF000000#32 = 0x88000000#32 ∧
    0x80123001#32 &&& 0xFF00000F#32 = 0x80000001#32 ∧
    0x80123002#32 &&& 0xFF00000F#32 = 0x80000002#32 ∧
    0x80120004#32 &&& 0xFF00000F#32 = 0x80000004#32 ∧
    0x80123005#32 &&& 0xFF00000F#32 = 0x80000005#32 ∧
    0x80123006#32 &&& 0xFF00000F#32 = 0x80000006#32 ∧
    0x80123007#32 &&& 0xFF00000F#32 = 0x80000007#32 ∧
    0x80123008#32 &&& 0xFF00000F#32 = 0x80000008#32 ∧
    0x80123009#32 &&& 0xFF00000F#32 = 0x80000009#32 ∧
    0x8012300A#32 &&& 0xFF00000F#32 = 0x8000000A#32 ∧
    0x8012300B#32 &&& 0xFF00000F#32 = 0x8000000B#32 ∧
    0x43000010#32 &&& 0xF0000000#32 = 0x40000000#32 ∧
    0x5300FFFE#32 &&& 0xF0000000#32 = 0x50000000#32 ∧
    0x62000010#32 &&& 0xF0000000#32 = 0x60000000#32 ∧
    0x70000005#32 &&& 0xF0000000#32 = 0x70000000#32 ∧
    0x18120004#32 &&& 0xFF000000#32 = 0x18000000#32 ∧
    0x10100100#32 &&& 0xFF000000#32 = 0x10000000#32 ∧
    0x1912FFFF#32 &&& 0xFF000000#32 = 0x19000000#32 ∧
    0x11120001#32 &&& 0xFF000000#32 = 0x11000000#32 ∧
    0x28120004#32 &&& 0xFF000000#32 = 0x28000000#32 ∧
    0x20100100#32 &&& 0xFF000000#32 = 0x20000000#32 ∧
    0x2912FFFF#32 &&& 0xFF000000#32 = 0x29000000#32 ∧
    0x21120001#32 &&& 0xFF000000#32 = 0x21000000#32 ∧
    0x30120000#32 &&& 0xF0000000#32 = 0x30000000#32 ∧
    0xF0000000#32 &&& 0xF0000000#32 = 0xF0000000#32 := by decide

/-- One word of each row of R73. -/
theorem witness_UndefinedWordStopsTheStep :
    (start []).run = .running ∧ ((start []).withFetchWord 32 0x90000000).instrAt 0 = some 0x90000000 ∧
    UndefinedWord 0x90000000 ∧ UndefinedWord 0xEFFFFFFF ∧ UndefinedWord 0x81000001 ∧ UndefinedWord 0x8F000001 ∧
    UndefinedWord 0x80000000 ∧ UndefinedWord 0x8000000F ∧ UndefinedWord 0x12000000 ∧ UndefinedWord 0x1F000000 ∧
    UndefinedWord 0x22000000 ∧ UndefinedWord 0x2F000000 := by
  refine ⟨rfl, rfl, ?_, ?_, ?_, ?_, ?_, ?_, ?_, ?_, ?_, ?_⟩ <;> simp [UndefinedWord]

theorem witness_UnusedFieldsDoNotMatter : decode 0x30120000#32 = .ok (.swp 1 2) := rfl

/-- A running machine with ADD R1,R2,R3 at its PC, 0xFFFF. -/
def addAtTheTop : State := (start [(2, 5), (3, 6)] (pc := 0xFFFF)).withFetchWord 32 0x80123001

theorem witness_StepRunsTheDecodedInstruction :
    addAtTheTop.run = .running ∧ addAtTheTop.instrAt addAtTheTop.pc = some 0x80123001 ∧
    decode 0x80123001#32 = .ok (.add 1 2 3) := ⟨rfl, rfl, rfl⟩

theorem witness_FetchOfAnUnloadedWordStops : State.reset.run = .running ∧ State.reset.instrAt State.reset.pc = none :=
  ⟨rfl, rfl⟩

theorem witness_HaltedMachineStaysAsItIs : State.reset.halt.run = .halted := rfl

theorem witness_OnlyHltChangesTheRunState :
    exec .hlt State.reset = .next State.reset.halt ∧ exec .nop State.reset = .next State.reset := ⟨rfl, rfl⟩

theorem witness_EveryStepKeepsMemoriesCanonical :
    Canonical addAtTheTop ∧ ∃ t, step addAtTheTop = .next t := ⟨⟨by decide, by decide⟩, _, rfl⟩

theorem witness_CanonicalMemoriesThatReadAlikeAreEqual :
    Memory.wf [(0, (7 : Word)), (65535, 8)] = true ∧ Memory.put [(0, (7 : Word))] 65535 8 = [(0, 7), (65535, 8)] := by
  decide

theorem witness_InstructionMemoryNeverChanges : ∃ t, Host.Core.run core 1 addAtTheTop = .next t := ⟨_, rfl⟩

theorem witness_LoadedProgramLiesFromZero : ([0x88100001, 0xF0000000] : List Word).length ≤ 65536 := by decide

theorem witness_RegisterReadsAndWritesFollowTheTable :
    AgreeOn (Instr.not 1 2).reads (start [(2, 5), (3, 6)]) (start [(2, 5), (3, 7)]) ∧
    (start [(2, 5), (3, 6)]).readReg 3 ≠ (start [(2, 5), (3, 7)]).readReg 3 ∧
    ∃ t, exec (.not 1 2) (start [(2, 5), (3, 6)]) = .next t := by
  refine ⟨⟨?_, rfl, rfl, rfl, rfl, rfl, rfl⟩, by decide, _, rfl⟩
  decide

theorem witness_OnlyStatusWritersChangeStat :
    Instr.writesStatus (.swp 1 2) = false ∧ ∃ t, exec (.swp 1 2) State.reset = .next t := ⟨rfl, _, rfl⟩

theorem witness_OnlyConditionalBranchesReadStat :
    Instr.readsStatus (.bne 0 5) = false ∧ Instr.readsStatus (.add 1 2 3) = false := ⟨rfl, rfl⟩

theorem witness_StepLeavesThePcByTheTable :
    addAtTheTop.run = .running ∧ addAtTheTop.instrAt addAtTheTop.pc = some 0x80123001 ∧
    decode 0x80123001#32 = .ok (.add 1 2 3) ∧ ∃ t, step addAtTheTop = .next t := ⟨rfl, rfl, rfl, _, rfl⟩

theorem witness_OnlyStoresChangeDataMemory :
    (∃ t, exec (.sta 1 0xFFFF) State.reset = .next t) ∧ ∃ t, exec (.add 1 2 3) State.reset = .next t :=
  ⟨⟨_, rfl⟩, _, rfl⟩

theorem witness_NopOnlyMovesThePc :
    (State.reset.withFetchWord 32 0x0FFFFFFF).run = .running ∧
    (State.reset.withFetchWord 32 0x0FFFFFFF).instrAt 0 = some 0x0FFFFFFF ∧
    0x0FFFFFFF#32 &&& 0xF0000000#32 = 0x00000000#32 := by decide

theorem witness_HltHaltsAndKeepsTheRest :
    (State.reset.withFetchWord 32 0xFFFFFFFF).run = .running ∧
    (State.reset.withFetchWord 32 0xFFFFFFFF).instrAt 0 = some 0xFFFFFFFF ∧
    0xFFFFFFFF#32 &&& 0xF0000000#32 = 0xF0000000#32 := by decide

/-- The masks of NOT, OR, AND, XOR, STX, STA and SWP, each met by a word with its unused bits set. -/
theorem witness_encoding_clauses :
    0x8012FFF4#32 &&& 0xFF00000F#32 = 0x80000004#32 ∧ 0x80123FF5#32 &&& 0xFF00000F#32 = 0x80000005#32 ∧
    0x80123FF6#32 &&& 0xFF00000F#32 = 0x80000006#32 ∧ 0x80123FF7#32 &&& 0xFF00000F#32 = 0x80000007#32 ∧
    0x28FFFFFF#32 &&& 0xFF000000#32 = 0x28000000#32 ∧ 0x20FFFFFF#32 &&& 0xFF000000#32 = 0x20000000#32 ∧
    0x3FFFFFFF#32 &&& 0xF0000000#32 = 0x30000000#32 := by decide

theorem witness_RotateLeftIsRotateRightByTheRest :
    ((start [(3, 4), (4, 28)]).readReg 4).toNat % 32 = (32 - ((start [(3, 4), (4, 28)]).readReg 3).toNat % 32) % 32 ∧
    ((start []).readReg 4).toNat % 32 = (32 - ((start []).readReg 3).toNat % 32) % 32 := by decide

/-- Both sides of the condition: a selected bit that is set, and none. -/
theorem witness_BranchesTestAnySelectedBit :
    (∃ k < 4, (0b0011#4).getLsbD k = true ∧ (0b0001#4).getLsbD k = true) ∧
    ¬∃ k < 4, (0b0000#4).getLsbD k = true ∧ (0b1111#4).getLsbD k = true := by decide

/-- After a SUB of equal values, of 0 - 1 and of the overflowing pair, each row's condition or its negation holds. -/
theorem witness_BranchesAfterSubTestTheComparison :
    (∃ t, exec (.sub 1 2 3) (start [(2, 0x7FFFFFFF), (3, 0xFFFFFFFF)]) = .next t) ∧
    (∃ t, exec (.sub 0 2 2) (start [(2, 7)]) = .next t) ∧ ∃ t, exec (.sub 1 2 3) (start [(3, 1)]) = .next t :=
  ⟨⟨_, rfl⟩, ⟨_, rfl⟩, _, rfl⟩

theorem witness_AddressesUseTheLowHalfAndBasesKeepAll :
    (∀ r, ((start [(2, 0x12340100)]).readReg r).extractLsb' 0 16 = ((start [(2, 0x00000100)]).readReg r).extractLsb' 0 16) ∧
    (∃ t, exec (.ldp 1 2 1) (start [(2, 0xFFFF)] (data := [(0, 5)])) = .next t) ∧
    (∃ t, exec (.ldr 1 2 1) (start [(2, 0xFFFF)] (data := [(0xFFFF, 5)])) = .next t) ∧
    (∃ t, exec (.stp 1 2 1) (start [(2, 0xFFFF)]) = .next t) ∧ ∃ t, exec (.str 2 2 1) (start [(2, 0xFFFF)]) = .next t := by
  refine ⟨by decide, ⟨_, rfl⟩, ⟨_, rfl⟩, ⟨_, rfl⟩, _, rfl⟩

/-- Base 0x0000FFFF: with offset 1 the address wraps to 0x0000; the base's own address is 0xFFFF. -/
def loadState : State := start [(2, 0xFFFF)] (data := [(0x0000, 5), (0xFFFF, 6)])

theorem witness_LoadsWithoutUpdateCopyTheWord :
    loadState.dataAt (loadState.indexedAddr 2 1) = some 5 ∧ loadState.dataAt 0xFFFF = some 6 := by decide

theorem witness_LoadsWithUpdateCopyTheWordAndMoveTheBase :
    ((1 : RegNum) ≠ 2 ∨ (1 : RegNum) = 0#4) ∧ ((0 : RegNum) ≠ 0 ∨ (0 : RegNum) = 0#4) ∧
    loadState.dataAt (loadState.indexedAddr 2 1) = some 5 ∧ loadState.dataAt (loadState.registerAddr 2) = some 6 ∧
    loadState.dataAt (loadState.registerAddr 0) = some 5 := by decide

theorem witness_LoadIntoItsOwnBaseTakesEitherValue :
    (2 : RegNum) ≠ 0#4 ∧ loadState.dataAt (loadState.indexedAddr 2 1) = some 5 ∧
    loadState.dataAt (loadState.registerAddr 2) = some 6 := by decide

theorem witness_LoadOfAnUnwrittenWordStops :
    (start [(2, 0xFFFF)]).dataAt 0 = none ∧ (start [(2, 0xFFFF)]).dataAt 0xFFFF = none ∧
    (start [(2, 0xFFFF)]).indexedAddr 2 1 = 0 ∧ (start [(2, 0xFFFF)]).registerAddr 2 = 0xFFFF := by decide

/-- The store, two instructions that leave its word alone, and every kind of load of it. -/
theorem witness_LoadReturnsTheLatestStore :
    storeEffect (.sta 1 0xFFFF) (start [(1, 5), (2, 0x10000), (3, 0xFFFF)]) = some (0xFFFF, 5) ∧
    ∃ t u, exec (.sta 1 0xFFFF) (start [(1, 5), (2, 0x10000), (3, 0xFFFF)]) = .next t ∧
      RunsWithoutStoreTo 0xFFFF [.sta 0 0x0000, .add 1 1 1] t u ∧ loadAddr (.ldx 1 2 0xFFFF) u = some 0xFFFF ∧
      loadAddr (.lda 0 0xFFFF) u = some 0xFFFF ∧ loadAddr (.ldp 2 2 0xFFFF) u = some 0xFFFF ∧
      loadAddr (.ldp 0 0 0xFFFF) u = some 0xFFFF ∧ loadAddr (.ldr 1 3 1) u = some 0xFFFF :=
  ⟨rfl, _, _, rfl, ⟨by decide, _, rfl, by decide, _, rfl, rfl⟩, rfl, rfl, rfl, rfl, rfl⟩

theorem witness_PushThenPopGivesTheWordBack : (7 : RegNum) ≠ 0#4 ∧ (3 : RegNum) ≠ 7 ∧ (0 : RegNum) ≠ 7 := by decide

theorem witness_PseudoInstructionsDoTheirArithmetic : settings.adiWritesStatus = true := rfl

theorem witness_PseudoInstructionsReachMemoryIndirectly :
    loadState.dataAt ((loadState.readReg 2).extractLsb' 0 16) = some 6 := by decide

theorem witness_TwoHalvesBuildAConstant :
    (1 : RegNum) ≠ 0#4 ∧ (2 : RegNum) ≠ 1 ∧ (start [(2, 16)]).readReg 2 = 16#32 := by decide

end Sys2Proof.Tests
end

section
/-! PROOF. Data addresses and base updates (`20_memory.md` R44): every data address is taken from the low halves of
registers, and a base update writes the whole 32-bit sum. -/

namespace Sys2Proof.Proofs

open Sys2Proof.Machine

/-! ### The addresses on the low halves of registers -/

theorem dataAddr_eq_extractLsb' (v : Word) : dataAddr v = v.extractLsb' 0 16 :=
  BitVec.setWidth_eq_extractLsb' (by decide)

/-- The low half of a sum depends on the low halves of its terms only. -/
theorem dataAddr_add (v w : Word) : dataAddr (v + w) = dataAddr v + dataAddr w :=
  BitVec.setWidth_add v w (by decide)

/-- Sign extension leaves the immediate in the low half. -/
theorem dataAddr_sext32 (imm : Imm) : dataAddr (sext32 imm) = imm := by
  apply BitVec.eq_of_getLsbD_eq
  intro i hi
  have hi32 : i < 32 := by omega
  simp [dataAddr, sext32, BitVec.getElem_signExtend, hi, hi32]

/-- Base plus offset wraps modulo 2^16: it is the bare register address plus the immediate. -/
theorem indexedAddr_eq_registerAddr_add (s : State) (rs : RegNum) (imm : Imm) :
    s.indexedAddr rs imm = s.registerAddr rs + imm :=
  calc s.indexedAddr rs imm
      = dataAddr (s.readReg rs) + dataAddr (sext32 imm) := dataAddr_add _ _
    _ = s.registerAddr rs + imm := by rw [dataAddr_sext32, State.registerAddr]

theorem registerAddr_eq_extractLsb' (s : State) (rs : RegNum) :
    s.registerAddr rs = (s.readReg rs).extractLsb' 0 16 := dataAddr_eq_extractLsb' _

theorem indexedAddr_eq_extractLsb' (s : State) (rs : RegNum) (imm : Imm) :
    s.indexedAddr rs imm = (s.readReg rs + imm.signExtend 32).extractLsb' 0 16 := dataAddr_eq_extractLsb' _

/-! ### The high halves of registers never reach memory -/

section
variable {s s' : State} (h : ∀ r, s.registerAddr r = s'.registerAddr r)
include h

theorem indexedAddr_congr (rs : RegNum) (imm : Imm) : s.indexedAddr rs imm = s'.indexedAddr rs imm := by
  rw [indexedAddr_eq_registerAddr_add, indexedAddr_eq_registerAddr_add, h]

theorem loadAddr_congr (i : Instr) : loadAddr i s = loadAddr i s' := by
  cases i with
  | ldx _ rs imm | ldp _ rs imm => exact congrArg some (indexedAddr_congr h rs imm)
  | ldr _ rs _ => exact congrArg some (h rs)
  | _ => rfl

theorem storeAddr_congr (i : Instr) :
    (storeEffect i s).map Prod.fst = (storeEffect i s').map Prod.fst := by
  cases i with
  | stx _ rs imm | stp _ rs imm => exact congrArg some (indexedAddr_congr h rs imm)
  | str _ rs _ => exact congrArg some (h rs)
  | _ => rfl

end

/-! ### A base update keeps all 32 bits of the sum -/

/-- LDP and LDR differ only in the address `a` they read; either way the base register takes the sum. -/
theorem readReg_base_of_load {s t : State} {rd rs : RegNum} {a : Addr} {sum : Word} (hrs : rs ≠ 0#4) (hne : rd ≠ rs)
    (h : andThen (s.loadWord a) (fun w => .next (s.writeLoadedAndBase rd rs w sum)) = .next t) :
    t.readReg rs = sum := by
  obtain ⟨w, -, hw⟩ := andThen_eq_next.mp h
  cases hw
  simp [State.readReg_writeLoadedAndBase, hrs, hne.symm]

/-- STP and STR differ only in the address `a` they write; either way the base register takes the sum. -/
theorem readReg_base_of_store {s t : State} {rs : RegNum} {a : Addr} {v sum : Word} (hrs : rs ≠ 0#4)
    (h : (.next ((s.putData a v).writeReg rs sum) : Result) = .next t) : t.readReg rs = sum := by
  cases h
  simp [State.readReg_writeReg_same, hrs]

/-- Settles O42: the addresses by the arithmetic of low halves, the agreement of the addresses of two states because
each is a function of low halves, the base updates by what a register reads after the instruction's last write. -/
theorem addressesUseTheLowHalfAndBasesKeepAll : Obligations.AddressesUseTheLowHalfAndBasesKeepAll := by
  unfold Obligations.AddressesUseTheLowHalfAndBasesKeepAll
  refine ⟨fun s rs imm => ⟨indexedAddr_eq_extractLsb' s rs imm, ?_, registerAddr_eq_extractLsb' s rs⟩, ?_, ?_⟩
  · rw [← registerAddr_eq_extractLsb', indexedAddr_eq_registerAddr_add]
  · intro i s s' hlow
    have h : ∀ r, s.registerAddr r = s'.registerAddr r := by
      simpa only [registerAddr_eq_extractLsb'] using hlow
    exact ⟨loadAddr_congr h i, storeAddr_congr h i⟩
  · rintro rd rs imm s t hrs (⟨hne, h | h⟩ | h | h)
    · exact readReg_base_of_load hrs hne (exec_ldp s rd rs imm ▸ h)
    · exact readReg_base_of_load hrs hne (exec_ldr s rd rs imm ▸ h)
    · exact readReg_base_of_store hrs (exec_stp s rd rs imm ▸ h)
    · exact readReg_base_of_store hrs (exec_str s rd rs imm ▸ h)

end Sys2Proof.Proofs
end

section
/-! PROOF. The bitwise logic operations (`40_alu.md` R108 to R111): a Format 1 word is decoded by its funct alone, and
each operation is one write of Rd, with every bit of the result determined by the operands' bits at the same place. -/

namespace Sys2Proof.Proofs

open Sys2Proof.Machine

/-! ### Words told apart by match and mask -/

/-- A field that lies under the mask is that of the match. -/
theorem extractLsb'_of_match {w mask pat : Word} {lo len : Nat} (h : w &&& mask = pat)
    (covered : mask.extractLsb' lo len = BitVec.allOnes len) : w.extractLsb' lo len = pat.extractLsb' lo len := by
  rw [← h, BitVec.extractLsb'_and, covered, BitVec.and_allOnes]

/-- Under the Format 1 mask the match fixes the funct field. -/
theorem functOf_of_match {w pat : Word} (h : w &&& 0xFF00000F#32 = pat) : functOf w = functOf pat :=
  extractLsb'_of_match h rfl

/-- Opcode 1000 with MM 0000 leaves the choice to the funct field (`30_encoding.md` R70). -/
theorem decode_eq_decodeFunct {w pat : Word} (h : w &&& 0xFF00000F#32 = pat) (hop : opcodeOf pat = 0b1000#4)
    (hmm : mmOf pat = 0b0000#4) : decode w = decodeFunct w := by
  have op : opcodeOf w = 0b1000#4 := (extractLsb'_of_match h rfl).trans hop
  have mm : mmOf w = 0b0000#4 := (extractLsb'_of_match h rfl).trans hmm
  rw [decode_eq_decodePattern]
  simp [decodePattern, op, decodeAlu, mm]

section
variable {w : Word}

theorem decode_not_of_match (h : w &&& 0xFF00000F#32 = 0x80000004#32) : decode w = .ok (.not (rdOf w) (rsOf w)) := by
  have funct : functOf w = 0b0100#4 := functOf_of_match h
  rw [decode_eq_decodeFunct h rfl rfl]
  simp [decodeFunct, funct]

theorem decode_or_of_match (h : w &&& 0xFF00000F#32 = 0x80000005#32) :
    decode w = .ok (.or (rdOf w) (rsOf w) (rtOf w)) := by
  have funct : functOf w = 0b0101#4 := functOf_of_match h
  rw [decode_eq_decodeFunct h rfl rfl]
  simp [decodeFunct, funct]

theorem decode_and_of_match (h : w &&& 0xFF00000F#32 = 0x80000006#32) :
    decode w = .ok (.and (rdOf w) (rsOf w) (rtOf w)) := by
  have funct : functOf w = 0b0110#4 := functOf_of_match h
  rw [decode_eq_decodeFunct h rfl rfl]
  simp [decodeFunct, funct]

theorem decode_xor_of_match (h : w &&& 0xFF00000F#32 = 0x80000007#32) :
    decode w = .ok (.xor (rdOf w) (rsOf w) (rtOf w)) := by
  have funct : functOf w = 0b0111#4 := functOf_of_match h
  rw [decode_eq_decodeFunct h rfl rfl]
  simp [decodeFunct, funct]

end

/-! ### What a logic operation writes and what it keeps -/

/-- Bit by bit, Rd takes the result; R0 stays zero. -/
theorem getLsbD_readReg_logic (s : State) (rd : RegNum) (v : Word) (k : Nat) :
    ((s.logic rd v).readReg rd).getLsbD k = (rd != 0#4 && v.getLsbD k) := by
  rw [State.logic_eq, State.readReg_writeReg_same]
  by_cases h : rd = 0#4 <;> simp [h]

/-- A logic operation changes nothing but Rd; in particular it keeps STAT (D8, log 11). -/
theorem onlyRegs_logic (s : State) (rd : RegNum) (v : Word) : OnlyRegs [rd] s (s.logic rd v) := by
  rw [State.logic_eq]
  have regs : RegsKeptBut [rd] s (s.writeReg rd v) := fun r hr =>
    State.readReg_writeReg_other s v (List.ne_of_not_mem_cons hr)
  exact ⟨regs, rfl, rfl, fun _ => rfl, rfl, rfl, rfl⟩

/-! ### The four operations -/

/-- Settles O32: the word by its match, the result by the bits of the complement. The bound on `k` is used here
only: above bit 31 a word reads zero, and so does its complement. -/
theorem notInvertsEveryBit : Obligations.NotInvertsEveryBit := by
  unfold Obligations.NotInvertsEveryBit
  refine ⟨fun w => decode_not_of_match, fun rd rs s => ⟨_, exec_not s rd rs, fun k hk => ?_, onlyRegs_logic s rd _⟩⟩
  rw [getLsbD_readReg_logic, BitVec.getLsbD_not, decide_eq_true hk, Bool.true_and]

/-- Settles O33: the word by its match, the result by the bits of the disjunction. -/
theorem orIsBitwise : Obligations.OrIsBitwise := by
  unfold Obligations.OrIsBitwise
  refine ⟨fun w => decode_or_of_match, fun rd rs rt s => ⟨_, exec_or s rd rs rt, fun k _ => ?_, onlyRegs_logic s rd _⟩⟩
  rw [getLsbD_readReg_logic, BitVec.getLsbD_or]

/-- Settles O34: the word by its match, the result by the bits of the conjunction. -/
theorem andIsBitwise : Obligations.AndIsBitwise := by
  unfold Obligations.AndIsBitwise
  refine ⟨fun w => decode_and_of_match, fun rd rs rt s => ⟨_, exec_and s rd rs rt, fun k _ => ?_, onlyRegs_logic s rd _⟩⟩
  rw [getLsbD_readReg_logic, BitVec.getLsbD_and]

/-- Settles O35: the word by its match, the result by the bits of the exclusive or. -/
theorem xorIsBitwise : Obligations.XorIsBitwise := by
  unfold Obligations.XorIsBitwise
  refine ⟨fun w => decode_xor_of_match, fun rd rs rt s => ⟨_, exec_xor s rd rs rt, fun k _ => ?_, onlyRegs_logic s rd _⟩⟩
  rw [getLsbD_readReg_logic, BitVec.getLsbD_xor, Bool.bne_eq_xor]

end Sys2Proof.Proofs
end

section
/-! PROOF. The four branches (`41_branch.md` R130, R131): what CC tests, where the relative target lies, and that a
branch is a choice of the next PC and nothing else. -/

namespace Sys2Proof.Proofs

open Sys2Proof.Machine

/-- The mask test of R130, bit by bit: a bit of the conjunction is 1 exactly if CC selects it and STAT has it set. -/
theorem condHit_iff (cc : CondMask) (stat : Status) :
    condHit cc stat = true ↔ ∃ k < 4, cc.getLsbD k = true ∧ stat.getLsbD k = true :=
  calc condHit cc stat = true
      ↔ ¬(cc &&& stat) = 0#4 := bne_iff_ne
    _ ↔ ¬∀ k < 4, (cc &&& stat).getLsbD k = (0#4).getLsbD k := not_congr BitVec.eq_of_getLsbD_eq_iff
    _ ↔ ∃ k < 4, cc.getLsbD k = true ∧ stat.getLsbD k = true := by
      simp only [BitVec.getLsbD_zero, BitVec.getLsbD_and, Bool.not_eq_false, Bool.and_eq_true, not_forall, exists_prop]

/-- The sum of words is the signed sum modulo 2^16: the offset counts backwards when its top bit is set. -/
theorem relativeTarget_eq_ofInt (s : State) (offset : Imm) :
    s.relativeTarget offset = BitVec.ofInt 16 ((s.pc.toNat : Int) + offset.toInt) := by
  rw [BitVec.ofInt_add, BitVec.ofInt_toInt, BitVec.ofInt_natCast, BitVec.ofNat_toNat, BitVec.setWidth_eq,
    State.relativeTarget]

/-- A branch only chooses the PC. -/
theorem branchIf_eq (s : State) (taken : Bool) (target : Addr) :
    s.branchIf taken target = { s with pc := if taken then target else s.pc } := by
  cases taken <;> rfl

/-- With `P` the condition to take the branch and `Q` the condition not to: the one state that follows, and its PC in
either case. -/
theorem exists_pc_of_branchIf (s : State) {taken : Bool} (target : Addr) {P Q : Prop} (yes : P → taken = true)
    (no : Q → taken = false) :
    ∃ t, (.next (s.branchIf taken target) : Result) = .next { s with pc := t } ∧ (P → t = target) ∧ (Q → t = s.pc) :=
  ⟨_, congrArg _ (branchIf_eq s taken target), fun p => if_pos (yes p), fun q => if_neg (Bool.eq_false_iff.mp (no q))⟩

/-- Settles O40: each branch is `branchIf` on the mask test or on its negation, with its own target. -/
theorem branchesTestAnySelectedBit : Obligations.BranchesTestAnySelectedBit := by
  unfold Obligations.BranchesTestAnySelectedBit
  intro cc imm s hit relative
  have hit_true : hit → condHit cc s.stat = true := (condHit_iff cc s.stat).mpr
  have hit_false : ¬hit → condHit cc s.stat = false := fun h => Bool.eq_false_iff.mpr (mt (condHit_iff cc s.stat).mp h)
  have not_hit_true : ¬hit → (!condHit cc s.stat) = true := fun h => congrArg not (hit_false h)
  have not_hit_false : hit → (!condHit cc s.stat) = false := fun h => congrArg not (hit_true h)
  have target_relative : s.relativeTarget imm = relative := relativeTarget_eq_ofInt s imm
  rw [exec_bra, exec_brr, exec_bne, exec_bnr, target_relative]
  exact ⟨exists_pc_of_branchIf s imm hit_true hit_false, exists_pc_of_branchIf s relative hit_true hit_false,
    exists_pc_of_branchIf s imm not_hit_true not_hit_false, exists_pc_of_branchIf s relative not_hit_true not_hit_false⟩

end Sys2Proof.Proofs
end

section
/-! PROOF. STX and STA, which store one word and keep the rest (`42_load_store_swap.md` R146, R147), and SWP, which
exchanges two registers (R152). -/

namespace Sys2Proof.Proofs

open Sys2Proof.Machine

/-! ### The words of STX, STA and SWP -/

section
variable {w : Word}

/-- Opcode 0010 leaves the choice to the MM field (`30_encoding.md` R70). -/
theorem decode_eq_decodeStore (op : opcodeOf w = 0b0010#4) : decode w = decodeStore w := by
  rw [decode_eq_decodePattern]
  simp [decodePattern, op]

theorem decode_stx_of_match (h : w &&& 0xFF000000#32 = 0x28000000#32) :
    decode w = .ok (.stx (rdOf w) (rsOf w) (immOf w)) := by
  have op : opcodeOf w = 0b0010#4 := extractLsb'_of_match h rfl
  have mm : mmOf w = 0b1000#4 := extractLsb'_of_match h rfl
  rw [decode_eq_decodeStore op]
  simp [decodeStore, mm]

theorem decode_sta_of_match (h : w &&& 0xFF000000#32 = 0x20000000#32) :
    decode w = .ok (.sta (rdOf w) (immOf w)) := by
  have op : opcodeOf w = 0b0010#4 := extractLsb'_of_match h rfl
  have mm : mmOf w = 0b0000#4 := extractLsb'_of_match h rfl
  rw [decode_eq_decodeStore op]
  simp [decodeStore, mm]

/-- SWP is told by its opcode alone: its MM field is unused. -/
theorem decode_swp_of_match (h : w &&& 0xF0000000#32 = 0x30000000#32) :
    decode w = .ok (.swp (rdOf w) (rsOf w)) := by
  have op : opcodeOf w = 0b0011#4 := extractLsb'_of_match h rfl
  rw [decode_eq_decodePattern]
  simp [decodePattern, op]

end

/-! ### What a store and an exchange write and what they keep -/

section
variable (s : State)

theorem ite_zero_readReg (r : RegNum) : (if r = 0#4 then 0#32 else s.readReg r) = s.readReg r :=
  ite_eq_right_iff.mpr fun h => h ▸ s.readReg_zero.symm

/-- The stored word is the source register's, which is zero for R0 (`10_state.md` R21). -/
theorem dataAt_putData_readReg (a : Addr) (rd : RegNum) :
    (s.putData a (s.readReg rd)).dataAt a = some (if rd = 0#4 then 0#32 else s.readReg rd) := by
  rw [State.dataAt_putData, if_pos rfl, ite_zero_readReg]

/-- A store writes no register and no data word but its own. -/
theorem onlyRegsAndWord_putData (a : Addr) (v : Word) : OnlyRegsAndWord [] a s (s.putData a v) := by
  have data : DataKeptBut a s (s.putData a v) := fun b hb => by rw [State.dataAt_putData, if_neg hb]
  exact ⟨fun _ _ => rfl, rfl, rfl, data, rfl, rfl, rfl⟩

/-- Two register writes change nothing but their two registers. -/
theorem onlyRegs_writeReg_writeReg (r q : RegNum) (v u : Word) :
    OnlyRegs [q, r] s ((s.writeReg r v).writeReg q u) := by
  have regs : RegsKeptBut [q, r] s ((s.writeReg r v).writeReg q u) := fun p hp => by
    obtain ⟨hq, hr⟩ := List.ne_and_not_mem_of_not_mem_cons hp
    rw [State.readReg_writeReg_other _ _ hq, State.readReg_writeReg_other _ _ (List.ne_of_not_mem_cons hr)]
  exact ⟨regs, rfl, rfl, fun _ => rfl, rfl, rfl, rfl⟩

/-- The register written first keeps its word through the second write, unless both are one register; then the two
words of an exchange are the same. -/
theorem readReg_exchanged_source (rd rs : RegNum) :
    ((s.writeReg rs (s.readReg rd)).writeReg rd (s.readReg rs)).readReg rs =
      if rs = 0#4 then 0#32 else s.readReg rd := by
  by_cases h : rs = rd
  · rw [h, State.readReg_writeReg_same]
  · rw [State.readReg_writeReg_other _ _ h, State.readReg_writeReg_same]

end

/-! ### The three instructions -/

/-- Settles O47: the word by its match, the effect by the one data word that STX writes. -/
theorem stxStoresAtBasePlusOffset : Obligations.StxStoresAtBasePlusOffset := by
  unfold Obligations.StxStoresAtBasePlusOffset
  exact ⟨fun w => decode_stx_of_match, fun rd rs imm s => ⟨_, exec_stx s rd rs imm,
    indexedAddr_eq_extractLsb' s rs imm, dataAt_putData_readReg s _ rd, onlyRegsAndWord_putData s _ _⟩⟩

/-- Settles O48: the word by its match, the effect by the one data word that STA writes. -/
theorem staStoresAtTheImmediate : Obligations.StaStoresAtTheImmediate := by
  unfold Obligations.StaStoresAtTheImmediate
  exact ⟨fun w => decode_sta_of_match, fun rd imm s => ⟨_, exec_sta s rd imm,
    dataAt_putData_readReg s imm rd, onlyRegsAndWord_putData s imm _⟩⟩

/-- Settles O52: the word by its match, the exchange by what each register reads after SWP's two writes, both of
values read before either write. -/
theorem swpExchangesTwoRegisters : Obligations.SwpExchangesTwoRegisters := by
  unfold Obligations.SwpExchangesTwoRegisters
  exact ⟨fun w => decode_swp_of_match, fun rd rs s => ⟨_, exec_swp s rd rs, State.readReg_writeReg_same _ rd _,
    readReg_exchanged_source s rd rs, onlyRegs_writeReg_writeReg s rs rd _ _⟩⟩

end Sys2Proof.Proofs
end

section
/-! PROOF. NOP (`43_nop_hlt.md` R160): told by its opcode alone, and a step on it is the fetch's move of the PC. -/

namespace Sys2Proof.Proofs

open Sys2Proof.Machine

/-- NOP is told by its opcode alone: all its other bits are unused. -/
theorem decode_nop_of_match {w : Word} (h : w &&& 0xF0000000#32 = 0x00000000#32) : decode w = .ok .nop := by
  have op : opcodeOf w = 0b0000#4 := extractLsb'_of_match h rfl
  rw [decode_eq_decodePattern]
  simp [decodePattern, op]

/-- A running machine executes the instruction it fetched and decoded, with the PC moved on (`10_state.md` R35). -/
theorem step_eq_exec_advance {s : State} {w : Word} {i : Instr} (running : s.run = .running)
    (fetched : s.instrAt s.pc = some w) (decoded : decode w = .ok i) : step s = exec i s.advance := by
  have hi : s.fetchInstr = .next i := by
    simp [State.fetchInstr, State.fetchWord_some fetched, State.decodeFetched_ok decoded]
  simp [step, State.cycle, running, hi]

/-- Settles O27: the word by its match, the step by NOP's empty meaning on the state whose PC the fetch moved on. -/
theorem nopOnlyMovesThePc : Obligations.NopOnlyMovesThePc := by
  unfold Obligations.NopOnlyMovesThePc
  refine ⟨exec_nop, fun w => decode_nop_of_match, fun s w running fetched isNop => ?_⟩
  calc step s
      = exec .nop s.advance := step_eq_exec_advance running fetched (decode_nop_of_match isNop)
    _ = .next { s with pc := s.pc + 1#16 } := exec_nop s.advance

end Sys2Proof.Proofs
end

section
/-! PROOF. Encoding and decoding (`30_encoding.md` R62 to R74): a word decodes to an instruction exactly if it agrees
with the instruction's canonical word on the bits that the instruction uses. -/

namespace Sys2Proof.Proofs

open Sys2Proof.Machine

/-! ### A field put into a word and taken out again -/

@[simp] theorem extractLsb'_placed_same {n lo : Nat} (v : BitVec n) (fits : lo + n ≤ 32) :
    (v.setWidth 32 <<< lo).extractLsb' lo n = v := by
  apply BitVec.eq_of_getLsbD_eq
  intro k hk
  have hlt : lo + k < 32 := by omega
  simp [hk, hlt]

@[simp] theorem extractLsb'_placed_other {n lo lo' n' : Nat} (v : BitVec n)
    (apart : lo' + n' ≤ lo ∨ lo + n ≤ lo') : (v.setWidth 32 <<< lo).extractLsb' lo' n' = 0#n' := by
  apply BitVec.eq_of_getLsbD_eq
  intro k hk
  rw [BitVec.getLsbD_extractLsb', BitVec.getLsbD_shiftLeft, BitVec.getLsbD_zero]
  rcases apart with h | h
  · have hlt : lo' + k < lo := by omega
    simp [hlt]
  · have hge : n ≤ lo' + k - lo := by omega
    simp [BitVec.getLsbD_of_ge v _ hge]

@[simp] theorem extractLsb'_placed_lowest {n : Nat} (v : BitVec n) (fits : n ≤ 32) :
    (v.setWidth 32).extractLsb' 0 n = v := by
  simpa using extractLsb'_placed_same v (by omega : 0 + n ≤ 32)

@[simp] theorem extractLsb'_above_placed_lowest {n lo' n' : Nat} (v : BitVec n) (apart : n ≤ lo') :
    (v.setWidth 32).extractLsb' lo' n' = 0#n' := by
  have apart' : lo' + n' ≤ 0 ∨ 0 + n ≤ lo' := .inr (by omega)
  simpa using extractLsb'_placed_other v apart'

theorem getLsbD_mask (f : BitField) {k : Nat} (hk : k < 32) :
    f.mask.getLsbD k = (decide (f.lo ≤ k) && decide (k - f.lo < f.width)) := by
  rw [BitField.mask, BitVec.getLsbD_ofNat, Nat.testBit_mul_two_pow, Nat.testBit_two_pow_sub_one, decide_eq_true hk,
    Bool.true_and]

/-- Taking a field out and putting it back keeps the field's bits and clears the others. -/
theorem place_get (f : BitField) (w : Word) : place f (f.get w) = w &&& f.mask := by
  apply BitVec.eq_of_getLsbD_eq
  intro k (hk : k < 32)
  rw [BitVec.getLsbD_and, getLsbD_mask f hk, place_eq, BitField.get]
  by_cases hlo : f.lo ≤ k
  · have hsub : f.lo + (k - f.lo) = k := by omega
    simp [hk, hlo, hsub, Bool.and_comm]
  · simp [hlo, Nat.not_le.mp hlo]

/-! ### The fields of a word of each format (R63, R64, R65) -/

section
variable (op mm f : BitVec 4) (rd rs rt : RegNum) (cc : CondMask) (imm : Imm)

@[simp] theorem opcodeOf_format1 : opcodeOf (format1 f rd rs rt) = 0b1000#4 := by
  simp [opcodeOf_eq, format1, place_eq, BitVec.extractLsb'_or]
@[simp] theorem mmOf_format1 : mmOf (format1 f rd rs rt) = 0b0000#4 := by
  simp [mmOf_eq, format1, place_eq, BitVec.extractLsb'_or]
@[simp] theorem rdOf_format1 : rdOf (format1 f rd rs rt) = rd := by
  simp [rdOf_eq, format1, place_eq, BitVec.extractLsb'_or]
@[simp] theorem rsOf_format1 : rsOf (format1 f rd rs rt) = rs := by
  simp [rsOf_eq, format1, place_eq, BitVec.extractLsb'_or]
@[simp] theorem rtOf_format1 : rtOf (format1 f rd rs rt) = rt := by
  simp [rtOf_eq, format1, place_eq, BitVec.extractLsb'_or]
@[simp] theorem functOf_format1 : functOf (format1 f rd rs rt) = f := by
  simp [functOf_eq, format1, place_eq, BitVec.extractLsb'_or]

@[simp] theorem opcodeOf_format2 : opcodeOf (format2 op mm rd rs imm) = op := by
  simp [opcodeOf_eq, format2, place_eq, BitVec.extractLsb'_or]
@[simp] theorem mmOf_format2 : mmOf (format2 op mm rd rs imm) = mm := by
  simp [mmOf_eq, format2, place_eq, BitVec.extractLsb'_or]
@[simp] theorem rdOf_format2 : rdOf (format2 op mm rd rs imm) = rd := by
  simp [rdOf_eq, format2, place_eq, BitVec.extractLsb'_or]
@[simp] theorem rsOf_format2 : rsOf (format2 op mm rd rs imm) = rs := by
  simp [rsOf_eq, format2, place_eq, BitVec.extractLsb'_or]
@[simp] theorem immOf_format2 : immOf (format2 op mm rd rs imm) = imm := by
  simp [immOf_eq, format2, place_eq, BitVec.extractLsb'_or]

@[simp] theorem opcodeOf_format3 : opcodeOf (format3 op cc imm) = op := by
  simp [opcodeOf_eq, format3, place_eq, BitVec.extractLsb'_or]
@[simp] theorem mmOf_format3 : mmOf (format3 op cc imm) = cc := by
  simp [mmOf_eq, format3, place_eq, BitVec.extractLsb'_or]
@[simp] theorem immOf_format3 : immOf (format3 op cc imm) = imm := by
  simp [immOf_eq, format3, place_eq, BitVec.extractLsb'_or]

end

/-! ### A word put together from another word's fields -/

section
variable (w : Word)

theorem placed_opcodeOf : (opcodeOf w).setWidth 32 <<< 28 = w &&& 0xF0000000#32 := place_get layout.opcode w
theorem placed_mmOf : (mmOf w).setWidth 32 <<< 24 = w &&& 0x0F000000#32 := place_get layout.mm w
theorem placed_rdOf : (rdOf w).setWidth 32 <<< 20 = w &&& 0x00F00000#32 := place_get layout.rd w
theorem placed_rsOf : (rsOf w).setWidth 32 <<< 16 = w &&& 0x000F0000#32 := place_get layout.rs w
theorem placed_rtOf : (rtOf w).setWidth 32 <<< 12 = w &&& 0x0000F000#32 := place_get layout.rt w

theorem placed_functOf : (functOf w).setWidth 32 = w &&& 0x0000000F#32 :=
  (BitVec.shiftLeft_zero _).symm.trans (place_get layout.funct w)

theorem placed_immOf : (immOf w).setWidth 32 = w &&& 0x0000FFFF#32 :=
  (BitVec.shiftLeft_zero _).symm.trans (place_get layout.imm w)

end

/-! A word under the masks of the opcode table (R71). -/

theorem and_opcode_mask (w : Word) : w &&& 0xF0000000#32 = (opcodeOf w).setWidth 32 <<< 28 :=
  (placed_opcodeOf w).symm

theorem and_opcode_mm_mask (w : Word) :
    w &&& 0xFF000000#32 = (opcodeOf w).setWidth 32 <<< 28 ||| (mmOf w).setWidth 32 <<< 24 := by
  rw [placed_opcodeOf, placed_mmOf, ← BitVec.and_or_distrib_left]
  rfl

theorem and_opcode_mm_funct_mask (w : Word) : w &&& 0xFF00000F#32 =
    (opcodeOf w).setWidth 32 <<< 28 ||| (mmOf w).setWidth 32 <<< 24 ||| (functOf w).setWidth 32 := by
  rw [placed_opcodeOf, placed_mmOf, placed_functOf, ← BitVec.and_or_distrib_left, ← BitVec.and_or_distrib_left]
  rfl

section
variable {w u : Word} {o m f : BitVec 4}

/-- Opcode 1000 and MM 0000 at their places, as every Format 1 word has them. -/
theorem placed_format1_opcode (op : opcodeOf w = 0b1000#4) (mm : mmOf w = 0b0000#4) :
    0x80000000#32 = w &&& 0xFF000000#32 := by
  rw [and_opcode_mm_mask, op, mm]
  rfl

theorem format1_of_fields (op : opcodeOf w = 0b1000#4) (mm : mmOf w = 0b0000#4) (fn : functOf w = f)
    (unused : u = 0x00000FF0#32) : format1 f (rdOf w) (rsOf w) (rtOf w) = w &&& ~~~u := by
  simp only [← fn, unused, format1_eq, placed_format1_opcode op mm, placed_rdOf, placed_rsOf, placed_rtOf,
    placed_functOf, ← BitVec.and_or_distrib_left]
  rfl

theorem format1_of_fields_but_rt (op : opcodeOf w = 0b1000#4) (mm : mmOf w = 0b0000#4) (fn : functOf w = f)
    (unused : u = 0x0000FFF0#32) : format1 f (rdOf w) (rsOf w) regZero = w &&& ~~~u := by
  simp only [← fn, unused, format1_eq, placed_format1_opcode op mm, placed_rdOf, placed_rsOf, placed_functOf,
    BitVec.setWidth_zero, BitVec.zero_shiftLeft, BitVec.or_zero, ← BitVec.and_or_distrib_left]
  rfl

theorem format2_of_fields (op : opcodeOf w = o) (mm : mmOf w = m) (unused : u = 0x00000000#32) :
    format2 o m (rdOf w) (rsOf w) (immOf w) = w &&& ~~~u := by
  simp only [← op, ← mm, unused, format2_eq, placed_opcodeOf, placed_mmOf, placed_rdOf, placed_rsOf, placed_immOf,
    ← BitVec.and_or_distrib_left]
  rfl

theorem format2_of_fields_but_rs (op : opcodeOf w = o) (mm : mmOf w = m) (unused : u = 0x000F0000#32) :
    format2 o m (rdOf w) regZero (immOf w) = w &&& ~~~u := by
  simp only [← op, ← mm, unused, format2_eq, placed_opcodeOf, placed_mmOf, placed_rdOf, placed_immOf,
    BitVec.setWidth_zero, BitVec.zero_shiftLeft, BitVec.or_zero, ← BitVec.and_or_distrib_left]
  rfl

theorem format2_of_fields_but_mm_imm (op : opcodeOf w = o) (unused : u = 0x0F00FFFF#32) :
    format2 o 0#4 (rdOf w) (rsOf w) 0#16 = w &&& ~~~u := by
  simp only [← op, unused, format2_eq, placed_opcodeOf, placed_rdOf, placed_rsOf, BitVec.setWidth_zero,
    BitVec.zero_shiftLeft, BitVec.or_zero, ← BitVec.and_or_distrib_left]
  rfl

theorem format3_of_fields (op : opcodeOf w = o) (unused : u = 0x00FF0000#32) :
    format3 o (mmOf w) (immOf w) = w &&& ~~~u := by
  simp only [← op, unused, format3_eq, placed_opcodeOf, placed_mmOf, placed_immOf, ← BitVec.and_or_distrib_left]
  rfl

theorem format3_of_opcode (op : opcodeOf w = o) (unused : u = 0x0FFFFFFF#32) :
    format3 o 0#4 0#16 = w &&& ~~~u := by
  simp only [← op, unused, format3_eq, placed_opcodeOf, BitVec.setWidth_zero, BitVec.zero_shiftLeft, BitVec.or_zero]
  rfl

end

/-! ### The rows of the opcode table (R71) -/

section
variable {w : Word}

/-- Opcode 0001 leaves the choice to the MM field (R70). -/
theorem decode_eq_decodeLoad (op : opcodeOf w = 0b0001#4) : decode w = decodeLoad w := by
  simp [decode_eq_decodePattern, decodePattern, op]

/-- Opcode 1000 leaves the choice to the MM field first (R70). -/
theorem decode_eq_decodeAlu (op : opcodeOf w = 0b1000#4) : decode w = decodeAlu w := by
  simp [decode_eq_decodePattern, decodePattern, op]

theorem opcodeOf_of_match {m pat : Word} (h : w &&& m = pat) (covered : opcodeOf m = 0b1111#4) :
    opcodeOf w = opcodeOf pat := extractLsb'_of_match h covered

theorem mmOf_of_match {m pat : Word} (h : w &&& m = pat) (covered : mmOf m = 0b1111#4) : mmOf w = mmOf pat :=
  extractLsb'_of_match h covered

theorem decode_adi_of_match (h : w &&& 0xFF000000#32 = 0x88000000#32) :
    decode w = .ok (.adi (rdOf w) (rsOf w) (immOf w)) := by
  have mm : mmOf w = 0b1000#4 := mmOf_of_match h rfl
  rw [decode_eq_decodeAlu (opcodeOf_of_match h rfl)]
  simp [decodeAlu, mm]

theorem decode_add_of_match (h : w &&& 0xFF00000F#32 = 0x80000001#32) :
    decode w = .ok (.add (rdOf w) (rsOf w) (rtOf w)) := by
  have funct : functOf w = 0b0001#4 := functOf_of_match h
  rw [decode_eq_decodeFunct h rfl rfl]
  simp [decodeFunct, funct]

theorem decode_sub_of_match (h : w &&& 0xFF00000F#32 = 0x80000002#32) :
    decode w = .ok (.sub (rdOf w) (rsOf w) (rtOf w)) := by
  have funct : functOf w = 0b0010#4 := functOf_of_match h
  rw [decode_eq_decodeFunct h rfl rfl]
  simp [decodeFunct, funct]

theorem decode_rtr_of_match (h : w &&& 0xFF00000F#32 = 0x80000008#32) :
    decode w = .ok (.rtr (rdOf w) (rsOf w) (rtOf w)) := by
  have funct : functOf w = 0b1000#4 := functOf_of_match h
  rw [decode_eq_decodeFunct h rfl rfl]
  simp [decodeFunct, funct]

theorem decode_rtl_of_match (h : w &&& 0xFF00000F#32 = 0x80000009#32) :
    decode w = .ok (.rtl (rdOf w) (rsOf w) (rtOf w)) := by
  have funct : functOf w = 0b1001#4 := functOf_of_match h
  rw [decode_eq_decodeFunct h rfl rfl]
  simp [decodeFunct, funct]

theorem decode_shr_of_match (h : w &&& 0xFF00000F#32 = 0x8000000A#32) :
    decode w = .ok (.shr (rdOf w) (rsOf w) (rtOf w)) := by
  have funct : functOf w = 0b1010#4 := functOf_of_match h
  rw [decode_eq_decodeFunct h rfl rfl]
  simp [decodeFunct, funct]

theorem decode_shl_of_match (h : w &&& 0xFF00000F#32 = 0x8000000B#32) :
    decode w = .ok (.shl (rdOf w) (rsOf w) (rtOf w)) := by
  have funct : functOf w = 0b1011#4 := functOf_of_match h
  rw [decode_eq_decodeFunct h rfl rfl]
  simp [decodeFunct, funct]

theorem decode_bra_of_match (h : w &&& 0xF0000000#32 = 0x40000000#32) :
    decode w = .ok (.bra (mmOf w) (immOf w)) := by
  have op : opcodeOf w = 0b0100#4 := opcodeOf_of_match h rfl
  simp [decode_eq_decodePattern, decodePattern, op]

theorem decode_brr_of_match (h : w &&& 0xF0000000#32 = 0x50000000#32) :
    decode w = .ok (.brr (mmOf w) (immOf w)) := by
  have op : opcodeOf w = 0b0101#4 := opcodeOf_of_match h rfl
  simp [decode_eq_decodePattern, decodePattern, op]

theorem decode_bne_of_match (h : w &&& 0xF0000000#32 = 0x60000000#32) :
    decode w = .ok (.bne (mmOf w) (immOf w)) := by
  have op : opcodeOf w = 0b0110#4 := opcodeOf_of_match h rfl
  simp [decode_eq_decodePattern, decodePattern, op]

theorem decode_bnr_of_match (h : w &&& 0xF0000000#32 = 0x70000000#32) :
    decode w = .ok (.bnr (mmOf w) (immOf w)) := by
  have op : opcodeOf w = 0b0111#4 := opcodeOf_of_match h rfl
  simp [decode_eq_decodePattern, decodePattern, op]

theorem decode_hlt_of_match (h : w &&& 0xF0000000#32 = 0xF0000000#32) : decode w = .ok .hlt := by
  have op : opcodeOf w = 0b1111#4 := opcodeOf_of_match h rfl
  simp [decode_eq_decodePattern, decodePattern, op]

theorem decode_lda_of_match (h : w &&& 0xFF000000#32 = 0x10000000#32) :
    decode w = .ok (.lda (rdOf w) (immOf w)) := by
  have mm : mmOf w = 0b0000#4 := mmOf_of_match h rfl
  rw [decode_eq_decodeLoad (opcodeOf_of_match h rfl)]
  simp [decodeLoad, mm]

theorem decode_ldr_of_match (h : w &&& 0xFF000000#32 = 0x11000000#32) :
    decode w = .ok (.ldr (rdOf w) (rsOf w) (immOf w)) := by
  have mm : mmOf w = 0b0001#4 := mmOf_of_match h rfl
  rw [decode_eq_decodeLoad (opcodeOf_of_match h rfl)]
  simp [decodeLoad, mm]

theorem decode_ldx_of_match (h : w &&& 0xFF000000#32 = 0x18000000#32) :
    decode w = .ok (.ldx (rdOf w) (rsOf w) (immOf w)) := by
  have mm : mmOf w = 0b1000#4 := mmOf_of_match h rfl
  rw [decode_eq_decodeLoad (opcodeOf_of_match h rfl)]
  simp [decodeLoad, mm]

theorem decode_ldp_of_match (h : w &&& 0xFF000000#32 = 0x19000000#32) :
    decode w = .ok (.ldp (rdOf w) (rsOf w) (immOf w)) := by
  have mm : mmOf w = 0b1001#4 := mmOf_of_match h rfl
  rw [decode_eq_decodeLoad (opcodeOf_of_match h rfl)]
  simp [decodeLoad, mm]

theorem decode_str_of_match (h : w &&& 0xFF000000#32 = 0x21000000#32) :
    decode w = .ok (.str (rdOf w) (rsOf w) (immOf w)) := by
  have mm : mmOf w = 0b0001#4 := mmOf_of_match h rfl
  rw [decode_eq_decodeStore (opcodeOf_of_match h rfl)]
  simp [decodeStore, mm]

theorem decode_stp_of_match (h : w &&& 0xFF000000#32 = 0x29000000#32) :
    decode w = .ok (.stp (rdOf w) (rsOf w) (immOf w)) := by
  have mm : mmOf w = 0b1001#4 := mmOf_of_match h rfl
  rw [decode_eq_decodeStore (opcodeOf_of_match h rfl)]
  simp [decodeStore, mm]

end

/-- Settles O3: one row of the opcode table after the other. -/
theorem matchAndMaskSelectTheInstruction : Obligations.MatchAndMaskSelectTheInstruction := by
  unfold Obligations.MatchAndMaskSelectTheInstruction
  exact fun w => ⟨decode_nop_of_match, decode_adi_of_match, decode_add_of_match, decode_sub_of_match,
    decode_not_of_match, decode_or_of_match, decode_and_of_match, decode_xor_of_match, decode_rtr_of_match,
    decode_rtl_of_match, decode_shr_of_match, decode_shl_of_match, decode_bra_of_match, decode_brr_of_match,
    decode_bne_of_match, decode_bnr_of_match, decode_ldx_of_match, decode_lda_of_match, decode_ldp_of_match,
    decode_ldr_of_match, decode_stx_of_match, decode_sta_of_match, decode_stp_of_match, decode_str_of_match,
    decode_swp_of_match, decode_hlt_of_match⟩

/-- Settles O7: each word by its row of the opcode table. -/
theorem exampleWordsDecode : Obligations.ExampleWordsDecode := by
  unfold Obligations.ExampleWordsDecode
  exact ⟨decode_adi_of_match rfl, decode_add_of_match rfl, decode_brr_of_match rfl, decode_ldp_of_match rfl,
    decode_str_of_match rfl, decode_swp_of_match rfl, decode_hlt_of_match rfl⟩

/-! ### A word that agrees with a canonical word on the used bits decodes to its instruction -/

section
variable {w : Word}

/-- What a word has under a mask, it has under every smaller mask. -/
theorem match_of_match {m used pat : Word} (h : pat = w &&& used) (smaller : used &&& m = m) : w &&& m = pat &&& m := by
  rw [h, BitVec.and_assoc, smaller]

section
variable {u : Word} {f op mm : BitVec 4} {rd rs rt : RegNum} {imm : Imm}

/-- A Format 1 word but for bits 11:4, through the row of its funct. -/
theorem decode_of_format1 {I : RegNum → RegNum → RegNum → Instr} (h : format1 f rd rs rt = w &&& ~~~u)
    (unused : u = 0x00000FF0#32)
    (row : w &&& 0xFF00000F#32 = 0x80000000#32 ||| f.setWidth 32 → decode w = .ok (I (rdOf w) (rsOf w) (rtOf w))) :
    decode w = .ok (I rd rs rt) := by
  subst unused
  have hm : w &&& 0xFF00000F#32 = 0x80000000#32 ||| f.setWidth 32 :=
    (match_of_match h (by decide)).trans (by simp [and_opcode_mm_funct_mask])
  have hrd : rdOf w = rd := (extractLsb'_of_match h.symm rfl).trans (rdOf_format1 f rd rs rt)
  have hrs : rsOf w = rs := (extractLsb'_of_match h.symm rfl).trans (rsOf_format1 f rd rs rt)
  have hrt : rtOf w = rt := (extractLsb'_of_match h.symm rfl).trans (rtOf_format1 f rd rs rt)
  rw [row hm, hrd, hrs, hrt]

/-- The same without Rt. -/
theorem decode_of_format1_but_rt {I : RegNum → RegNum → Instr} (h : format1 f rd rs rt = w &&& ~~~u)
    (unused : u = 0x0000FFF0#32)
    (row : w &&& 0xFF00000F#32 = 0x80000000#32 ||| f.setWidth 32 → decode w = .ok (I (rdOf w) (rsOf w))) :
    decode w = .ok (I rd rs) := by
  subst unused
  have hm : w &&& 0xFF00000F#32 = 0x80000000#32 ||| f.setWidth 32 :=
    (match_of_match h (by decide)).trans (by simp [and_opcode_mm_funct_mask])
  have hrd : rdOf w = rd := (extractLsb'_of_match h.symm rfl).trans (rdOf_format1 f rd rs rt)
  have hrs : rsOf w = rs := (extractLsb'_of_match h.symm rfl).trans (rsOf_format1 f rd rs rt)
  rw [row hm, hrd, hrs]

/-- A Format 2 word, through the row of its opcode and MM. -/
theorem decode_of_format2 {I : RegNum → RegNum → Imm → Instr} (h : format2 op mm rd rs imm = w &&& ~~~u)
    (unused : u = 0x00000000#32)
    (row : w &&& 0xFF000000#32 = op.setWidth 32 <<< 28 ||| mm.setWidth 32 <<< 24 →
      decode w = .ok (I (rdOf w) (rsOf w) (immOf w))) :
    decode w = .ok (I rd rs imm) := by
  subst unused
  have hm : w &&& 0xFF000000#32 = op.setWidth 32 <<< 28 ||| mm.setWidth 32 <<< 24 :=
    (match_of_match h (by decide)).trans (by simp [and_opcode_mm_mask])
  have hrd : rdOf w = rd := (extractLsb'_of_match h.symm rfl).trans (rdOf_format2 op mm rd rs imm)
  have hrs : rsOf w = rs := (extractLsb'_of_match h.symm rfl).trans (rsOf_format2 op mm rd rs imm)
  have himm : immOf w = imm := (extractLsb'_of_match h.symm rfl).trans (immOf_format2 op mm rd rs imm)
  rw [row hm, hrd, hrs, himm]

/-- The same without Rs. -/
theorem decode_of_format2_but_rs {I : RegNum → Imm → Instr} (h : format2 op mm rd rs imm = w &&& ~~~u)
    (unused : u = 0x000F0000#32)
    (row : w &&& 0xFF000000#32 = op.setWidth 32 <<< 28 ||| mm.setWidth 32 <<< 24 →
      decode w = .ok (I (rdOf w) (immOf w))) :
    decode w = .ok (I rd imm) := by
  subst unused
  have hm : w &&& 0xFF000000#32 = op.setWidth 32 <<< 28 ||| mm.setWidth 32 <<< 24 :=
    (match_of_match h (by decide)).trans (by simp [and_opcode_mm_mask])
  have hrd : rdOf w = rd := (extractLsb'_of_match h.symm rfl).trans (rdOf_format2 op mm rd rs imm)
  have himm : immOf w = imm := (extractLsb'_of_match h.symm rfl).trans (immOf_format2 op mm rd rs imm)
  rw [row hm, hrd, himm]

/-- The same without MM and immediate, through the row of its opcode alone. -/
theorem decode_of_format2_but_mm_imm {I : RegNum → RegNum → Instr}
    (h : format2 op mm rd rs imm = w &&& ~~~u)
    (unused : u = 0x0F00FFFF#32)
    (row : w &&& 0xF0000000#32 = op.setWidth 32 <<< 28 → decode w = .ok (I (rdOf w) (rsOf w))) :
    decode w = .ok (I rd rs) := by
  subst unused
  have hm : w &&& 0xF0000000#32 = op.setWidth 32 <<< 28 :=
    (match_of_match h (by decide)).trans (by simp [and_opcode_mask])
  have hrd : rdOf w = rd := (extractLsb'_of_match h.symm rfl).trans (rdOf_format2 op mm rd rs imm)
  have hrs : rsOf w = rs := (extractLsb'_of_match h.symm rfl).trans (rsOf_format2 op mm rd rs imm)
  rw [row hm, hrd, hrs]

/-- A Format 3 word but for bits 23:16, through the row of its opcode. -/
theorem decode_of_format3 {I : CondMask → Imm → Instr} {cc : CondMask} (h : format3 op cc imm = w &&& ~~~u)
    (unused : u = 0x00FF0000#32)
    (row : w &&& 0xF0000000#32 = op.setWidth 32 <<< 28 → decode w = .ok (I (mmOf w) (immOf w))) :
    decode w = .ok (I cc imm) := by
  subst unused
  have hm : w &&& 0xF0000000#32 = op.setWidth 32 <<< 28 :=
    (match_of_match h (by decide)).trans (by simp [and_opcode_mask])
  have hcc : mmOf w = cc := (extractLsb'_of_match h.symm rfl).trans (mmOf_format3 op cc imm)
  have himm : immOf w = imm := (extractLsb'_of_match h.symm rfl).trans (immOf_format3 op cc imm)
  rw [row hm, hcc, himm]

end

/-- Each instruction through the lemma of its format and the row of the opcode table. -/
theorem decode_of_encode_eq {i : Instr} (h : encode i = w &&& ~~~i.unusedBits) : decode w = .ok i := by
  cases i with
  | nop => exact decode_nop_of_match (unusedBits_nop ▸ h).symm
  | hlt => exact decode_hlt_of_match (unusedBits_hlt ▸ h).symm
  | adi rd rs imm => exact decode_of_format2 h (unusedBits_adi rd rs imm) decode_adi_of_match
  | add rd rs rt => exact decode_of_format1 h (unusedBits_add rd rs rt) decode_add_of_match
  | sub rd rs rt => exact decode_of_format1 h (unusedBits_sub rd rs rt) decode_sub_of_match
  | not rd rs => exact decode_of_format1_but_rt h (unusedBits_not rd rs) decode_not_of_match
  | or rd rs rt => exact decode_of_format1 h (unusedBits_or rd rs rt) decode_or_of_match
  | and rd rs rt => exact decode_of_format1 h (unusedBits_and rd rs rt) decode_and_of_match
  | xor rd rs rt => exact decode_of_format1 h (unusedBits_xor rd rs rt) decode_xor_of_match
  | rtr rd rs rt => exact decode_of_format1 h (unusedBits_rtr rd rs rt) decode_rtr_of_match
  | rtl rd rs rt => exact decode_of_format1 h (unusedBits_rtl rd rs rt) decode_rtl_of_match
  | shr rd rs rt => exact decode_of_format1 h (unusedBits_shr rd rs rt) decode_shr_of_match
  | shl rd rs rt => exact decode_of_format1 h (unusedBits_shl rd rs rt) decode_shl_of_match
  | bra cc imm => exact decode_of_format3 h (unusedBits_bra cc imm) decode_bra_of_match
  | brr cc imm => exact decode_of_format3 h (unusedBits_brr cc imm) decode_brr_of_match
  | bne cc imm => exact decode_of_format3 h (unusedBits_bne cc imm) decode_bne_of_match
  | bnr cc imm => exact decode_of_format3 h (unusedBits_bnr cc imm) decode_bnr_of_match
  | ldx rd rs imm => exact decode_of_format2 h (unusedBits_ldx rd rs imm) decode_ldx_of_match
  | lda rd imm => exact decode_of_format2_but_rs h (unusedBits_lda rd imm) decode_lda_of_match
  | ldp rd rs imm => exact decode_of_format2 h (unusedBits_ldp rd rs imm) decode_ldp_of_match
  | ldr rd rs imm => exact decode_of_format2 h (unusedBits_ldr rd rs imm) decode_ldr_of_match
  | stx rd rs imm => exact decode_of_format2 h (unusedBits_stx rd rs imm) decode_stx_of_match
  | sta rd imm => exact decode_of_format2_but_rs h (unusedBits_sta rd imm) decode_sta_of_match
  | stp rd rs imm => exact decode_of_format2 h (unusedBits_stp rd rs imm) decode_stp_of_match
  | str rd rs imm => exact decode_of_format2 h (unusedBits_str rd rs imm) decode_str_of_match
  | swp rd rs => exact decode_of_format2_but_mm_imm h (unusedBits_swp rd rs) decode_swp_of_match

end

/-! ### A decoded word agrees with its instruction's canonical word on the used bits -/

section
variable {w : Word} {i : Instr}

theorem encode_of_decodeFunct (op : opcodeOf w = 0b1000#4) (mm : mmOf w = 0b0000#4) (h : decodeFunct w = .ok i) :
    encode i = w &&& ~~~i.unusedBits := by
  simp only [decodeFunct] at h
  obtain ⟨fn, ⟨⟩⟩ | ⟨-, h⟩ := ite_eq_iff.mp h
  · exact format1_of_fields op mm fn (unusedBits_add _ _ _)
  obtain ⟨fn, ⟨⟩⟩ | ⟨-, h⟩ := ite_eq_iff.mp h
  · exact format1_of_fields op mm fn (unusedBits_sub _ _ _)
  obtain ⟨fn, ⟨⟩⟩ | ⟨-, h⟩ := ite_eq_iff.mp h
  · exact format1_of_fields_but_rt op mm fn (unusedBits_not _ _)
  obtain ⟨fn, ⟨⟩⟩ | ⟨-, h⟩ := ite_eq_iff.mp h
  · exact format1_of_fields op mm fn (unusedBits_or _ _ _)
  obtain ⟨fn, ⟨⟩⟩ | ⟨-, h⟩ := ite_eq_iff.mp h
  · exact format1_of_fields op mm fn (unusedBits_and _ _ _)
  obtain ⟨fn, ⟨⟩⟩ | ⟨-, h⟩ := ite_eq_iff.mp h
  · exact format1_of_fields op mm fn (unusedBits_xor _ _ _)
  obtain ⟨fn, ⟨⟩⟩ | ⟨-, h⟩ := ite_eq_iff.mp h
  · exact format1_of_fields op mm fn (unusedBits_rtr _ _ _)
  obtain ⟨fn, ⟨⟩⟩ | ⟨-, h⟩ := ite_eq_iff.mp h
  · exact format1_of_fields op mm fn (unusedBits_rtl _ _ _)
  obtain ⟨fn, ⟨⟩⟩ | ⟨-, h⟩ := ite_eq_iff.mp h
  · exact format1_of_fields op mm fn (unusedBits_shr _ _ _)
  obtain ⟨fn, ⟨⟩⟩ | ⟨-, h⟩ := ite_eq_iff.mp h
  · exact format1_of_fields op mm fn (unusedBits_shl _ _ _)
  · cases h

theorem encode_of_decodeAlu (op : opcodeOf w = 0b1000#4) (h : decodeAlu w = .ok i) :
    encode i = w &&& ~~~i.unusedBits := by
  simp only [decodeAlu] at h
  obtain ⟨mm, ⟨⟩⟩ | ⟨-, h⟩ := ite_eq_iff.mp h
  · exact format2_of_fields op mm (unusedBits_adi _ _ _)
  obtain ⟨mm, h⟩ | ⟨-, h⟩ := ite_eq_iff.mp h
  · exact encode_of_decodeFunct op mm h
  · cases h

theorem encode_of_decodeLoad (op : opcodeOf w = 0b0001#4) (h : decodeLoad w = .ok i) :
    encode i = w &&& ~~~i.unusedBits := by
  simp only [decodeLoad] at h
  obtain ⟨mm, ⟨⟩⟩ | ⟨-, h⟩ := ite_eq_iff.mp h
  · exact format2_of_fields_but_rs op mm (unusedBits_lda _ _)
  obtain ⟨mm, ⟨⟩⟩ | ⟨-, h⟩ := ite_eq_iff.mp h
  · exact format2_of_fields op mm (unusedBits_ldr _ _ _)
  obtain ⟨mm, ⟨⟩⟩ | ⟨-, h⟩ := ite_eq_iff.mp h
  · exact format2_of_fields op mm (unusedBits_ldx _ _ _)
  obtain ⟨mm, ⟨⟩⟩ | ⟨-, h⟩ := ite_eq_iff.mp h
  · exact format2_of_fields op mm (unusedBits_ldp _ _ _)
  · cases h

theorem encode_of_decodeStore (op : opcodeOf w = 0b0010#4) (h : decodeStore w = .ok i) :
    encode i = w &&& ~~~i.unusedBits := by
  simp only [decodeStore] at h
  obtain ⟨mm, ⟨⟩⟩ | ⟨-, h⟩ := ite_eq_iff.mp h
  · exact format2_of_fields_but_rs op mm (unusedBits_sta _ _)
  obtain ⟨mm, ⟨⟩⟩ | ⟨-, h⟩ := ite_eq_iff.mp h
  · exact format2_of_fields op mm (unusedBits_str _ _ _)
  obtain ⟨mm, ⟨⟩⟩ | ⟨-, h⟩ := ite_eq_iff.mp h
  · exact format2_of_fields op mm (unusedBits_stx _ _ _)
  obtain ⟨mm, ⟨⟩⟩ | ⟨-, h⟩ := ite_eq_iff.mp h
  · exact format2_of_fields op mm (unusedBits_stp _ _ _)
  · cases h

/-- Along the decode tree (R70), a leaf's fields put together being the word on the used bits. -/
theorem encode_of_decode (h : decode w = .ok i) : encode i = w &&& ~~~i.unusedBits := by
  simp only [decode_eq_decodePattern, decodePattern] at h
  obtain ⟨op, ⟨⟩⟩ | ⟨-, h⟩ := ite_eq_iff.mp h
  · exact format3_of_opcode op unusedBits_nop
  obtain ⟨op, h⟩ | ⟨-, h⟩ := ite_eq_iff.mp h
  · exact encode_of_decodeLoad op h
  obtain ⟨op, h⟩ | ⟨-, h⟩ := ite_eq_iff.mp h
  · exact encode_of_decodeStore op h
  obtain ⟨op, ⟨⟩⟩ | ⟨-, h⟩ := ite_eq_iff.mp h
  · exact format2_of_fields_but_mm_imm op (unusedBits_swp _ _)
  obtain ⟨op, ⟨⟩⟩ | ⟨-, h⟩ := ite_eq_iff.mp h
  · exact format3_of_fields op (unusedBits_bra _ _)
  obtain ⟨op, ⟨⟩⟩ | ⟨-, h⟩ := ite_eq_iff.mp h
  · exact format3_of_fields op (unusedBits_brr _ _)
  obtain ⟨op, ⟨⟩⟩ | ⟨-, h⟩ := ite_eq_iff.mp h
  · exact format3_of_fields op (unusedBits_bne _ _)
  obtain ⟨op, ⟨⟩⟩ | ⟨-, h⟩ := ite_eq_iff.mp h
  · exact format3_of_fields op (unusedBits_bnr _ _)
  obtain ⟨op, h⟩ | ⟨-, h⟩ := ite_eq_iff.mp h
  · exact encode_of_decodeAlu op h
  obtain ⟨op, ⟨⟩⟩ | ⟨-, h⟩ := ite_eq_iff.mp h
  · exact format3_of_opcode op unusedBits_hlt
  · cases h

/-- The words of an instruction are those that have its canonical word's bits wherever it uses them. -/
theorem decode_eq_ok_iff : decode w = .ok i ↔ encode i = w &&& ~~~i.unusedBits :=
  ⟨encode_of_decode, decode_of_encode_eq⟩

/-- A canonical word is zero in its unused bits, instruction by instruction. -/
theorem encode_and_unusedBits (i : Instr) : encode i &&& i.unusedBits = 0#32 := by
  cases i with
  | nop => exact Laws.CanonicalWord.nop
  | hlt => exact Laws.CanonicalWord.hlt
  | adi => exact Laws.CanonicalWord.adi _ _ _
  | add => exact Laws.CanonicalWord.add _ _ _
  | sub => exact Laws.CanonicalWord.sub _ _ _
  | not => exact Laws.CanonicalWord.not _ _
  | or => exact Laws.CanonicalWord.or _ _ _
  | and => exact Laws.CanonicalWord.and _ _ _
  | xor => exact Laws.CanonicalWord.xor _ _ _
  | rtr => exact Laws.CanonicalWord.rtr _ _ _
  | rtl => exact Laws.CanonicalWord.rtl _ _ _
  | shr => exact Laws.CanonicalWord.shr _ _ _
  | shl => exact Laws.CanonicalWord.shl _ _ _
  | bra => exact Laws.CanonicalWord.bra _ _
  | brr => exact Laws.CanonicalWord.brr _ _
  | bne => exact Laws.CanonicalWord.bne _ _
  | bnr => exact Laws.CanonicalWord.bnr _ _
  | ldx => exact Laws.CanonicalWord.ldx _ _ _
  | lda => exact Laws.CanonicalWord.lda _ _
  | ldp => exact Laws.CanonicalWord.ldp _ _ _
  | ldr => exact Laws.CanonicalWord.ldr _ _ _
  | stx => exact Laws.CanonicalWord.stx _ _ _
  | sta => exact Laws.CanonicalWord.sta _ _
  | stp => exact Laws.CanonicalWord.stp _ _ _
  | str => exact Laws.CanonicalWord.str _ _ _
  | swp => exact Laws.CanonicalWord.swp _ _

end

theorem and_not_eq_self_of_and_eq_zero {w u : Word} (h : w &&& u = 0#32) : w &&& ~~~u = w := by
  have or_parts : w &&& u ||| w &&& ~~~u = w := by
    rw [← BitVec.and_or_distrib_left, BitVec.or_not_self, BitVec.and_allOnes]
  rwa [h, BitVec.zero_or] at or_parts

theorem xor_and_and_not (w u v : Word) : (w ^^^ (u &&& v)) &&& ~~~v = w &&& ~~~v := by
  apply BitVec.eq_of_getLsbD_eq
  intro k hk
  cases hv : v[k] <;> simp [hv, hk]

/-- Settles O1: the canonical word agrees with itself on the used bits, being zero elsewhere. -/
theorem decodeInvertsEncode : Obligations.DecodeInvertsEncode := by
  unfold Obligations.DecodeInvertsEncode
  exact fun i => decode_of_encode_eq (and_not_eq_self_of_and_eq_zero (encode_and_unusedBits i)).symm

/-- Settles O2, along the decode tree. -/
theorem encodeInvertsDecodeOnUsedFields : Obligations.EncodeInvertsDecodeOnUsedFields := by
  unfold Obligations.EncodeInvertsDecodeOnUsedFields
  exact fun w i => encode_of_decode

/-- Settles O6: the changed word has the same used bits. -/
theorem unusedFieldsDoNotMatter : Obligations.UnusedFieldsDoNotMatter := by
  unfold Obligations.UnusedFieldsDoNotMatter
  intro w u i h
  rw [decode_eq_ok_iff] at h ⊢
  rw [h, xor_and_and_not]

/-! ### The undefined words (R73) -/

section
variable {w : Word}

/-- A branch of the decode tree that ends in an instruction rejects nothing. -/
theorem exists_error_ite_ok (c : Prop) [Decidable c] (i : Instr) (x : Except DecodeError Instr) :
    (∃ e, (if c then .ok i else x) = .error e) ↔ ¬c ∧ ∃ e, x = .error e := by
  by_cases c <;> simp [*]

theorem decodeLoad_error_iff :
    (∃ e, decodeLoad w = .error e) ↔ mmOf w ∉ [0b0000#4, 0b0001#4, 0b1000#4, 0b1001#4] := by
  simp [decodeLoad, exists_error_ite_ok]

theorem decodeStore_error_iff :
    (∃ e, decodeStore w = .error e) ↔ mmOf w ∉ [0b0000#4, 0b0001#4, 0b1000#4, 0b1001#4] := by
  simp [decodeStore, exists_error_ite_ok]

/-- The six functs of R73 are those that the tree does not name. -/
theorem undefined_funct_iff (f : BitVec 4) :
    f ∈ [0b0000#4, 0b0011#4, 0b1100#4, 0b1101#4, 0b1110#4, 0b1111#4] ↔
      f ∉ [0b0001#4, 0b0010#4, 0b0100#4, 0b0101#4, 0b0110#4, 0b0111#4, 0b1000#4, 0b1001#4, 0b1010#4, 0b1011#4] := by
  revert f
  decide

theorem decodeFunct_error_iff : (∃ e, decodeFunct w = .error e) ↔
    functOf w ∈ [0b0000#4, 0b0011#4, 0b1100#4, 0b1101#4, 0b1110#4, 0b1111#4] := by
  rw [undefined_funct_iff]
  simp [decodeFunct, exists_error_ite_ok]

theorem decodeAlu_error_iff : (∃ e, decodeAlu w = .error e) ↔ mmOf w ∉ [0b0000#4, 0b1000#4] ∨
    mmOf w = 0b0000#4 ∧ functOf w ∈ [0b0000#4, 0b0011#4, 0b1100#4, 0b1101#4, 0b1110#4, 0b1111#4] := by
  by_cases mm : mmOf w = 0b0000#4
  · simp [decodeAlu, mm, decodeFunct_error_iff]
  · simp [decodeAlu, mm, exists_error_ite_ok]

/-- The six opcodes of R73 are those that the tree does not name. -/
theorem undefined_opcode_iff (op : BitVec 4) :
    op ∈ [0b1001#4, 0b1010#4, 0b1011#4, 0b1100#4, 0b1101#4, 0b1110#4] ↔
      op ∉ [0b0000#4, 0b0001#4, 0b0010#4, 0b0011#4, 0b0100#4, 0b0101#4, 0b0110#4, 0b0111#4, 0b1000#4, 0b1111#4] := by
  revert op
  decide

/-- The rows of R73 on the decoder's names of the fields. -/
theorem undefinedWord_iff : UndefinedWord w ↔
    opcodeOf w ∈ [0b1001#4, 0b1010#4, 0b1011#4, 0b1100#4, 0b1101#4, 0b1110#4] ∨
    (opcodeOf w = 0b1000#4 ∧ mmOf w ∉ [0b0000#4, 0b1000#4]) ∨
    (opcodeOf w = 0b1000#4 ∧ mmOf w = 0b0000#4 ∧
      functOf w ∈ [0b0000#4, 0b0011#4, 0b1100#4, 0b1101#4, 0b1110#4, 0b1111#4]) ∨
    (opcodeOf w = 0b0001#4 ∧ mmOf w ∉ [0b0000#4, 0b0001#4, 0b1000#4, 0b1001#4]) ∨
    (opcodeOf w = 0b0010#4 ∧ mmOf w ∉ [0b0000#4, 0b0001#4, 0b1000#4, 0b1001#4]) := Iff.rfl

/-- Opcode by opcode: those that the decode tree does not name are rejected, those that stand for one instruction are
not, and the other three reject what their subtrees reject. -/
theorem decode_error_iff : (∃ e, decode w = .error e) ↔ UndefinedWord w := by
  rw [undefinedWord_iff]
  by_cases undefined : opcodeOf w ∈ [0b1001#4, 0b1010#4, 0b1011#4, 0b1100#4, 0b1101#4, 0b1110#4]
  · have rejected : decode w = .error .undefinedOpcode := by
      rw [undefined_opcode_iff] at undefined
      simp only [List.mem_cons, List.not_mem_nil, or_false, not_or] at undefined
      simp [decode_eq_decodePattern, decodePattern, undefined]
    exact iff_of_true ⟨_, rejected⟩ (.inl undefined)
  · rw [undefined_opcode_iff, not_not] at undefined
    simp only [List.mem_cons, List.not_mem_nil, or_false] at undefined
    rcases undefined with op | op | op | op | op | op | op | op | op | op
    · simp [decode_eq_decodePattern, decodePattern, op]
    · simp [decode_eq_decodeLoad op, decodeLoad_error_iff, op]
    · simp [decode_eq_decodeStore op, decodeStore_error_iff, op]
    · simp [decode_eq_decodePattern, decodePattern, op]
    · simp [decode_eq_decodePattern, decodePattern, op]
    · simp [decode_eq_decodePattern, decodePattern, op]
    · simp [decode_eq_decodePattern, decodePattern, op]
    · simp [decode_eq_decodePattern, decodePattern, op]
    · simp [decode_eq_decodeAlu op, decodeAlu_error_iff, op]
    · simp [decode_eq_decodePattern, decodePattern, op]

end

/-- Settles O4: the decoder's errors opcode by opcode. -/
theorem decoderRejectsExactlyTheUndefinedWords : Obligations.DecoderRejectsExactlyTheUndefinedWords := by
  unfold Obligations.DecoderRejectsExactlyTheUndefinedWords
  exact fun _ => decode_error_iff

/-- A running machine goes on with what it makes of the word it fetched. -/
theorem step_eq_decodeFetched {s : State} {w : Word} (running : s.run = .running) (fetched : s.instrAt s.pc = some w) :
    step s = andThen (s.decodeFetched w) fun i => exec i s.advance := by
  simp [step, State.cycle, running, State.fetchInstr, State.fetchWord_some fetched]

/-- Settles O5: the decoder rejects the word, for whatever reason, and the machine makes an illegal instruction of
it. -/
theorem undefinedWordStopsTheStep : Obligations.UndefinedWordStopsTheStep := by
  unfold Obligations.UndefinedWordStopsTheStep
  intro s w running fetched undefined
  obtain ⟨e, rejected⟩ := decode_error_iff.mpr undefined
  rw [step_eq_decodeFetched running fetched, State.decodeFetched_error rejected, andThen_fault]

end Sys2Proof.Proofs
end

section
/-! PROOF. What an instruction does, in one function: the state after it, and the one load that can stop it. The
frames and the invariants of the machine as a whole follow from what this function keeps. -/

namespace Sys2Proof.Proofs

open Sys2Proof.Machine

/-! ### The state after an instruction -/

/-- The state after `i` at `s`, where `w` is the data word that `i` loads, if it loads one. -/
def stateAfter (i : Instr) (s : State) (w : Word) : State :=
  match i with
  | .nop => s
  | .hlt => s.halt
  | .adi rd rs imm =>
    s.arith rd (if settings.adiWritesStatus then addStatus (s.readReg rs) (sext32 imm) else s.stat)
      (s.readReg rs + sext32 imm)
  | .add rd rs rt => s.arith rd (addStatus (s.readReg rs) (s.readReg rt)) (s.readReg rs + s.readReg rt)
  | .sub rd rs rt => s.arith rd (subStatus (s.readReg rs) (s.readReg rt)) (s.readReg rs - s.readReg rt)
  | .not rd rs => s.writeReg rd (~~~s.readReg rs)
  | .or rd rs rt => s.writeReg rd (s.readReg rs ||| s.readReg rt)
  | .and rd rs rt => s.writeReg rd (s.readReg rs &&& s.readReg rt)
  | .xor rd rs rt => s.writeReg rd (s.readReg rs ^^^ s.readReg rt)
  | .rtr rd rs rt => s.writeReg rd ((s.readReg rs).rotateRight (s.shiftCount rt))
  | .rtl rd rs rt => s.writeReg rd ((s.readReg rs).rotateLeft (s.shiftCount rt))
  | .shr rd rs rt => s.writeReg rd (shiftRight settings.shrFill (s.readReg rs) (s.shiftCount rt))
  | .shl rd rs rt => s.writeReg rd (s.readReg rs <<< s.shiftCount rt)
  | .bra cc target => s.branchIf (condHit cc s.stat) (absoluteAddr target)
  | .brr cc offset => s.branchIf (condHit cc s.stat) (s.relativeTarget offset)
  | .bne cc target => s.branchIf (!condHit cc s.stat) (absoluteAddr target)
  | .bnr cc offset => s.branchIf (!condHit cc s.stat) (s.relativeTarget offset)
  | .ldx rd _ _ | .lda rd _ => s.writeReg rd w
  | .ldp rd rs imm | .ldr rd rs imm => s.writeLoadedAndBase rd rs w (s.baseSum rs imm)
  | .stx rd rs imm => s.putData (s.indexedAddr rs imm) (s.readReg rd)
  | .sta rd imm => s.putData (absoluteAddr imm) (s.readReg rd)
  | .stp rd rs imm => (s.putData (s.indexedAddr rs imm) (s.readReg rd)).writeReg rs (s.baseSum rs imm)
  | .str rd rs imm => (s.putData (s.registerAddr rs) (s.readReg rd)).writeReg rs (s.baseSum rs imm)
  | .swp rd rs => (s.writeReg rs (s.readReg rd)).writeReg rd (s.readReg rs)

/-- An instruction that is no load completes. -/
theorem exec_of_loadAddr_none {i : Instr} {s : State} (h : loadAddr i s = none) (w : Word) :
    exec i s = .next (stateAfter i s w) := by
  cases i with
  | ldx | lda | ldp | ldr => cases h
  | stx rd rs imm => exact exec_stx s rd rs imm
  | sta rd imm => exact exec_sta s rd imm
  | stp rd rs imm => exact exec_stp s rd rs imm
  | str rd rs imm => exact exec_str s rd rs imm
  | _ => rfl

/-- A load is a read of its data word, and then completes. -/
theorem exec_of_loadAddr_some {i : Instr} {s : State} {a : Addr} (h : loadAddr i s = some a) :
    exec i s = andThen (s.loadWord a) fun w => .next (stateAfter i s w) := by
  cases i with
  | ldx rd rs imm => cases h; exact exec_ldx s rd rs imm
  | lda rd imm => cases h; exact exec_lda s rd imm
  | ldp rd rs imm => cases h; exact exec_ldp s rd rs imm
  | ldr rd rs imm => cases h; exact exec_ldr s rd rs imm
  | _ => cases h

/-- A load of a word that has a value. -/
theorem exec_of_loaded (i : Instr) {s : State} {a : Addr} {w : Word} (h : loadAddr i s = some a)
    (loaded : s.dataAt a = some w) : exec i s = .next (stateAfter i s w) := by
  rw [exec_of_loadAddr_some h, State.loadWord_some loaded, andThen_next]

/-- A load of a word that has none. -/
theorem exec_of_unwritten (i : Instr) {s : State} {a : Addr} (h : loadAddr i s = some a)
    (unwritten : s.dataAt a = none) : exec i s = .fault (.readBeforeWrite (.dataWord a) (s.pc - 1#16)) := by
  rw [exec_of_loadAddr_some h, State.loadWord_none unwritten, andThen_fault, State.instrAddr]

/-- Every next state that an instruction answers is `stateAfter`. -/
theorem exec_eq_next {i : Instr} {s t : State} (h : exec i s = .next t) : ∃ w, t = stateAfter i s w := by
  cases hload : loadAddr i s with
  | none =>
    rw [exec_of_loadAddr_none hload 0#32] at h
    cases h
    exact ⟨_, rfl⟩
  | some a =>
    rw [exec_of_loadAddr_some hload] at h
    obtain ⟨w, -, hw⟩ := andThen_eq_next.mp h
    cases hw
    exact ⟨w, rfl⟩

/-! ### What every instruction keeps -/

section
variable (i : Instr) (s : State) (w : Word)

@[simp] theorem stateAfter_imem : (stateAfter i s w).imem = s.imem := by
  cases i <;> simp [stateAfter]

theorem stateAfter_run : (stateAfter i s w).run = if i = .hlt then .halted else s.run := by
  cases i <;> simp [stateAfter]

theorem stateAfter_stat (h : i.writesStatus = false) : (stateAfter i s w).stat = s.stat := by
  cases i with
  | adi | add | sub => cases h
  | _ => simp [stateAfter]

theorem stateAfter_dmem : (stateAfter i s w).dmem =
    ((storeEffect i s).elim s.dmem fun e => s.dmem.put e.1.toNat e.2) := by
  cases i <;> simp [stateAfter, storeEffect]

theorem stateAfter_readReg {r : RegNum} (h : r ∉ i.writes) : (stateAfter i s w).readReg r = s.readReg r := by
  cases i with
  | nop | hlt | stx | sta => rfl
  | bra | brr | bne | bnr => exact State.branchIf_readReg ..
  | ldp rd rs imm | ldr rd rs imm =>
    obtain ⟨hd, hs⟩ := List.ne_and_not_mem_of_not_mem_cons h
    simp only [stateAfter, State.readReg_writeLoadedAndBase, hd, List.ne_of_not_mem_cons hs, false_and, if_false]
    exact ite_zero_readReg s r
  | swp rd rs =>
    obtain ⟨hd, hs⟩ := List.ne_and_not_mem_of_not_mem_cons h
    rw [stateAfter, State.readReg_writeReg_other _ _ hd, State.readReg_writeReg_other _ _ (List.ne_of_not_mem_cons hs)]
  | stp | str => exact State.readReg_writeReg_other _ _ (List.ne_of_not_mem_cons h)
  | _ => exact State.readReg_writeReg_other _ _ (List.ne_of_not_mem_cons h)

end

/-! ### What every step keeps -/

/-- A step changes the state, if at all, as the instruction it runs does, once the PC is moved on. -/
theorem step_eq_next {s t : State} (h : step s = .next t) : t = s ∨ ∃ i w, t = stateAfter i s.advance w := by
  obtain ⟨-, rfl⟩ | ⟨-, -, i, -, -, he⟩ := step_cases h
  · exact .inl rfl
  · obtain ⟨w, hw⟩ := exec_eq_next he
    exact .inr ⟨i, w, hw⟩

theorem step_imem {s t : State} (h : step s = .next t) : t.imem = s.imem := by
  obtain rfl | ⟨i, w, rfl⟩ := step_eq_next h
  · rfl
  · simp

/-- Data memory after an instruction is canonical: at most one word was written. -/
theorem stateAfter_dmem_wf (i : Instr) {s : State} (w : Word) (h : s.dmem.wf = true) :
    (stateAfter i s w).dmem.wf = true := by
  rw [stateAfter_dmem]
  cases storeEffect i s with
  | none => exact h
  | some e => exact Memory.wf_put e.1 e.2 h

/-- Settles O12: no step touches instruction memory, and a write of one word keeps the form of data memory. -/
theorem everyStepKeepsMemoriesCanonical : Obligations.EveryStepKeepsMemoriesCanonical := by
  unfold Obligations.EveryStepKeepsMemoriesCanonical
  rintro s t ⟨imem_wf, dmem_wf⟩ h
  refine ⟨step_imem h ▸ imem_wf, ?_⟩
  obtain rfl | ⟨i, w, rfl⟩ := step_eq_next h
  · exact dmem_wf
  · exact stateAfter_dmem_wf i w dmem_wf

/-- Settles O13: both memories are empty. -/
theorem resetMemoriesAreCanonical : Obligations.ResetMemoriesAreCanonical := by
  unfold Obligations.ResetMemoriesAreCanonical
  exact ⟨State.reset_imem_wf, State.reset_dmem_wf⟩

/-! ### Runs -/

/-- A machine in a state that steps to itself stays there. -/
theorem run_of_step_eq_self (M : Host.Core) {s : M.State} (h : M.step s = .next s) (k : Nat) : M.run k s = .next s := by
  induction k with
  | zero => rfl
  | succ k ih => rw [Host.Core.run, h]; exact ih

/-- What no step changes, no run changes. -/
theorem run_keeps (M : Host.Core) {α : Type} (f : M.State → α) (kept : ∀ s t, M.step s = .next t → f t = f s) (k : Nat)
    {s t : M.State} (h : M.run k s = .next t) : f t = f s := by
  induction k generalizing s with
  | zero => cases h; rfl
  | succ k ih =>
    rw [Host.Core.run] at h
    split at h
    next u hu => exact (ih h).trans (kept s u hu)
    next => cases h
    next => cases h

theorem step_of_halted {s : State} (halted : s.run = .halted) : step s = .next s := by
  simp [step, State.cycle, halted]

/-- Settles O10: a halted machine steps to the state it is in. -/
theorem haltedMachineStaysAsItIs : Obligations.HaltedMachineStaysAsItIs := by
  unfold Obligations.HaltedMachineStaysAsItIs
  exact fun k s halted => run_of_step_eq_self core (step_of_halted halted) k

/-- Settles O15: no step changes instruction memory. -/
theorem instructionMemoryNeverChanges : Obligations.InstructionMemoryNeverChanges := by
  unfold Obligations.InstructionMemoryNeverChanges
  exact fun k s t => run_keeps core State.imem (fun _ _ => step_imem) k

/-! ### One step -/

/-- Settles O8: `State.advance` is that move of the PC. -/
theorem stepRunsTheDecodedInstruction : Obligations.StepRunsTheDecodedInstruction := by
  unfold Obligations.StepRunsTheDecodedInstruction
  exact fun s w i running fetched decoded => step_eq_exec_advance running fetched decoded

/-- Settles O9: the fetch stops, and the cycle with it. -/
theorem fetchOfAnUnloadedWordStops : Obligations.FetchOfAnUnloadedWordStops := by
  unfold Obligations.FetchOfAnUnloadedWordStops
  intro s running unloaded
  simp [step, State.cycle, running, State.fetchInstr, State.fetchWord_none unloaded]

/-- Settles O28: HLT's meaning, and a step on a word of its row. -/
theorem hltHaltsAndKeepsTheRest : Obligations.HltHaltsAndKeepsTheRest := by
  unfold Obligations.HltHaltsAndKeepsTheRest
  refine ⟨exec_hlt, fun s w running fetched isHlt => ?_⟩
  calc step s
      = exec .hlt s.advance := step_eq_exec_advance running fetched (decode_hlt_of_match isHlt)
    _ = .next { s with pc := s.pc + 1#16, run := .halted } := exec_hlt s.advance

/-- Settles O23: the four branches by their condition and target; every other instruction keeps the PC, which the fetch
has moved on. -/
theorem stepLeavesThePcByTheTable : Obligations.StepLeavesThePcByTheTable := by
  unfold Obligations.StepLeavesThePcByTheTable
  intro s t w i running fetched decoded h
  rw [step_eq_exec_advance running fetched decoded] at h
  obtain ⟨v, rfl⟩ := exec_eq_next h
  cases i with
  | bra | bne => simp [stateAfter, condHit, absoluteAddr]
  | brr | bnr => simp [stateAfter, condHit, State.relativeTarget]
  | _ => simp [stateAfter]

/-! ### One instruction -/

/-- Settles O11: by the run state after each instruction. -/
theorem onlyHltChangesTheRunState : Obligations.OnlyHltChangesTheRunState := by
  unfold Obligations.OnlyHltChangesTheRunState
  intro i s t h
  obtain ⟨w, rfl⟩ := exec_eq_next h
  exact stateAfter_run i s w

/-- Settles O21: by STAT after each instruction but the writers of it. -/
theorem onlyStatusWritersChangeStat : Obligations.OnlyStatusWritersChangeStat := by
  unfold Obligations.OnlyStatusWritersChangeStat
  intro i s t noStatus h
  obtain ⟨w, rfl⟩ := exec_eq_next h
  exact stateAfter_stat i s w noStatus

/-- What an instruction leaves at a data address: the word it stores there, or else what was there. -/
theorem dataAt_stateAfter (i : Instr) (s : State) (w : Word) (b : Addr) : (stateAfter i s w).dataAt b =
    (storeEffect i s).elim (s.dataAt b) fun e => if b = e.1 then some e.2 else s.dataAt b := by
  rw [State.dataAt_eq, stateAfter_dmem]
  cases storeEffect i s with
  | none => rfl
  | some e => exact State.dataAt_putData s e.1 b e.2

/-- Settles O24: by the data words after an instruction, which its store effect determines. -/
theorem onlyStoresChangeDataMemory : Obligations.OnlyStoresChangeDataMemory := by
  unfold Obligations.OnlyStoresChangeDataMemory
  intro i s t h
  obtain ⟨w, rfl⟩ := exec_eq_next h
  cases hs : storeEffect i s with
  | none => exact fun b => by simp [dataAt_stateAfter, hs]
  | some e =>
    refine ⟨?_, fun b hb => ?_⟩
    · simp [dataAt_stateAfter, hs]
    · simp [dataAt_stateAfter, hs, hb]

/-- Settles O25: an instruction that is no load completes, and a load does if its data word has a value. -/
theorem onlyALoadOfAnUnwrittenWordStops : Obligations.OnlyALoadOfAnUnwrittenWordStops := by
  unfold Obligations.OnlyALoadOfAnUnwrittenWordStops
  intro i s
  cases hload : loadAddr i s with
  | none => exact .inl ⟨_, exec_of_loadAddr_none hload 0#32⟩
  | some a =>
    cases hdata : s.dataAt a with
    | none => exact .inr ⟨a, rfl, hdata, exec_of_unwritten i hload hdata⟩
    | some w => exact .inl ⟨_, exec_of_loaded i hload hdata⟩

/-- Settles O46: the address of each of the four loads is one of the three, and its word is unwritten. -/
theorem loadOfAnUnwrittenWordStops : Obligations.LoadOfAnUnwrittenWordStops := by
  unfold Obligations.LoadOfAnUnwrittenWordStops
  intro rd rs imm s a unwritten stop
  refine ⟨fun h => ⟨?_, ?_⟩, fun h => ?_, fun h => ?_⟩
  · exact exec_of_unwritten (.ldx rd rs imm) (congrArg some h) unwritten
  · exact exec_of_unwritten (.ldp rd rs imm) (congrArg some h) unwritten
  · exact exec_of_unwritten (.lda rd imm) (congrArg some h) unwritten
  · exact exec_of_unwritten (.ldr rd rs imm) (congrArg some h) unwritten

/-! ### Two runs side by side -/

/-- Two states in which an instruction loads from one address, the memories and the PC being alike, give the same
answer if the states after it are related, whatever word is loaded. -/
theorem sameAnswer_exec {R : State → State → Prop} {i : Instr} {s s' : State} (addr : loadAddr i s = loadAddr i s')
    (data : s.dmem = s'.dmem) (pc : s.pc = s'.pc) (after : ∀ w, R (stateAfter i s w) (stateAfter i s' w)) :
    SameAnswer R (exec i s) (exec i s') := by
  cases hload : loadAddr i s with
  | none =>
    rw [exec_of_loadAddr_none hload 0#32, exec_of_loadAddr_none (addr ▸ hload) 0#32]
    exact after _
  | some a =>
    have same : s.dataAt a = s'.dataAt a := by rw [State.dataAt_eq, State.dataAt_eq, data]
    cases hdata : s.dataAt a with
    | none =>
      rw [exec_of_unwritten i hload hdata, exec_of_unwritten i (addr ▸ hload) (same ▸ hdata), pc]
      exact rfl
    | some w =>
      rw [exec_of_loaded i hload hdata, exec_of_loaded i (addr ▸ hload) (same ▸ hdata)]
      exact after w

theorem loadAddr_of_agreeOn {i : Instr} {s s' : State} (h : ∀ r ∈ i.reads, s.readReg r = s'.readReg r) :
    loadAddr i s = loadAddr i s' := by
  cases i with
  | ldx _ rs imm | ldp _ rs imm | ldr _ rs imm =>
    have base : s.readReg rs = s'.readReg rs := h rs (List.mem_singleton_self rs)
    simp [loadAddr, State.indexedAddr, State.baseSum, State.registerAddr, base]
  | _ => rfl

section
variable {rs : List RegNum} {s s' : State}

theorem agreeOn_of_subset {ds : List RegNum} (h : AgreeOn rs s s') (sub : ds ⊆ rs) : AgreeOn ds s s' := by
  obtain ⟨regs, rest⟩ := h
  exact ⟨fun r hr => regs r (sub hr), rest⟩

/-- One write to both states: they then agree on the register written too. -/
theorem agreeOn_writeReg (h : AgreeOn rs s s') (r : RegNum) (v : Word) :
    AgreeOn (r :: rs) (s.writeReg r v) (s'.writeReg r v) := by
  obtain ⟨regs, rest⟩ := h
  refine ⟨fun q hq => ?_, rest⟩
  by_cases hqr : q = r
  · rw [hqr, State.readReg_writeReg_same, State.readReg_writeReg_same]
  · rw [State.readReg_writeReg_other _ _ hqr, State.readReg_writeReg_other _ _ hqr]
    exact regs q (List.mem_of_ne_of_mem hqr hq)

theorem agreeOn_setStat (h : AgreeOn rs s s') (v : Status) : AgreeOn rs (s.setStat v) (s'.setStat v) := by
  obtain ⟨regs, pc, -, rest⟩ := h
  exact ⟨regs, pc, rfl, rest⟩

theorem agreeOn_arith (h : AgreeOn rs s s') (r : RegNum) (st : Status) (v : Word) :
    AgreeOn (r :: rs) (s.arith r st v) (s'.arith r st v) :=
  agreeOn_writeReg (agreeOn_setStat h st) r v

theorem agreeOn_setPc (h : AgreeOn rs s s') (t : Addr) : AgreeOn rs (s.setPc t) (s'.setPc t) := by
  obtain ⟨regs, -, rest⟩ := h
  exact ⟨regs, rfl, rest⟩

theorem agreeOn_branchIf (h : AgreeOn rs s s') (taken : Bool) (t : Addr) :
    AgreeOn rs (s.branchIf taken t) (s'.branchIf taken t) := by
  cases taken
  · exact h
  · exact agreeOn_setPc h t

theorem agreeOn_putData (h : AgreeOn rs s s') (a : Addr) (v : Word) : AgreeOn rs (s.putData a v) (s'.putData a v) := by
  obtain ⟨regs, pc, stat, imem, dmem, rest⟩ := h
  exact ⟨regs, pc, stat, imem, congrArg (Memory.put · a.toNat v) dmem, rest⟩

theorem agreeOn_halt (h : AgreeOn rs s s') : AgreeOn rs s.halt s'.halt := by
  obtain ⟨regs, pc, stat, imem, dmem, -, draws⟩ := h
  exact ⟨regs, pc, stat, imem, dmem, rfl, draws⟩

theorem agreeOn_drawn (h : AgreeOn rs s s') : AgreeOn rs s.drawn s'.drawn := by
  obtain ⟨regs, pc, stat, imem, dmem, run, draws⟩ := h
  exact ⟨regs, pc, stat, imem, dmem, run, congrArg (· + 1) draws⟩

/-- Both states draw the same value, having made as many draws. -/
theorem agreeOn_writeLoadedAndBase (h : AgreeOn rs s s') (d r : RegNum) (w b : Word) :
    AgreeOn (d :: r :: rs) (s.writeLoadedAndBase d r w b) (s'.writeLoadedAndBase d r w b) := by
  have ⟨_, _, _, _, _, _, draws⟩ := h
  by_cases same : d = r ∧ d ≠ regZero
  · simp only [State.writeLoadedAndBase, if_pos same, draws]
    refine agreeOn_of_subset (agreeOn_drawn (agreeOn_writeReg h d _)) ?_
    simp [same.1]
  · simp only [State.writeLoadedAndBase, if_neg same]
    exact agreeOn_of_subset (agreeOn_writeReg (agreeOn_writeReg h d w) r b) (by simp)

end

/-- The values an instruction computes are those of the registers it reads, and what it writes is then alike. -/
theorem agreeOn_stateAfter {i : Instr} {s s' : State} (h : AgreeOn i.reads s s') (w : Word) :
    AgreeOn i.writes (stateAfter i s w) (stateAfter i s' w) := by
  have none : AgreeOn [] s s' := agreeOn_of_subset h (List.nil_subset _)
  obtain ⟨regs, pc, stat, -⟩ := h
  cases i with
  | nop => exact none
  | hlt => exact agreeOn_halt none
  | adi rd rs imm =>
    simp only [stateAfter, regs rs (by simp [Instr.reads]), stat]
    exact agreeOn_arith none _ _ _
  | add rd rs rt | sub rd rs rt =>
    simp only [stateAfter, regs rs (by simp [Instr.reads]), regs rt (by simp [Instr.reads])]
    exact agreeOn_arith none _ _ _
  | not rd rs =>
    simp only [stateAfter, regs rs (by simp [Instr.reads])]
    exact agreeOn_writeReg none _ _
  | or rd rs rt | and rd rs rt | xor rd rs rt | rtr rd rs rt | rtl rd rs rt | shr rd rs rt | shl rd rs rt =>
    simp only [stateAfter, State.shiftCount, regs rs (by simp [Instr.reads]), regs rt (by simp [Instr.reads])]
    exact agreeOn_writeReg none _ _
  | bra | brr | bne | bnr =>
    simp only [stateAfter, State.relativeTarget, stat, pc]
    exact agreeOn_branchIf none _ _
  | ldx | lda => exact agreeOn_writeReg none _ _
  | ldp rd rs imm | ldr rd rs imm =>
    simp only [stateAfter, State.baseSum, regs rs (by simp [Instr.reads])]
    exact agreeOn_writeLoadedAndBase none _ _ _ _
  | stx rd rs imm =>
    simp only [stateAfter, State.indexedAddr, State.baseSum, regs rd (by simp [Instr.reads]),
      regs rs (by simp [Instr.reads])]
    exact agreeOn_putData none _ _
  | sta rd imm =>
    simp only [stateAfter, regs rd (by simp [Instr.reads])]
    exact agreeOn_putData none _ _
  | stp rd rs imm | str rd rs imm =>
    simp only [stateAfter, State.indexedAddr, State.registerAddr, State.baseSum, regs rd (by simp [Instr.reads]),
      regs rs (by simp [Instr.reads])]
    exact agreeOn_writeReg (agreeOn_putData none _ _) _ _
  | swp rd rs =>
    simp only [stateAfter, regs rd (by simp [Instr.reads]), regs rs (by simp [Instr.reads])]
    exact agreeOn_writeReg (agreeOn_writeReg none _ _) _ _

/-- Settles O20: what an instruction keeps, and what two runs of it share. -/
theorem registerReadsAndWritesFollowTheTable : Obligations.RegisterReadsAndWritesFollowTheTable := by
  unfold Obligations.RegisterReadsAndWritesFollowTheTable
  refine ⟨fun i s t h r hr => ?_, fun i s s' h => ?_⟩
  · obtain ⟨w, rfl⟩ := exec_eq_next h
    exact stateAfter_readReg i s w hr
  · have ⟨regs, pc, _, _, dmem, _⟩ := h
    exact sameAnswer_exec (loadAddr_of_agreeOn regs) dmem pc (agreeOn_stateAfter h)

theorem condHit_zero (stat : Status) : condHit 0#4 stat = false := by simp [condHit]

theorem setStat_setStat (s : State) (v u : Status) : (s.setStat v).setStat u = s.setStat u := rfl

/-- STAT reaches neither the registers that LDP and LDR write nor their draw. -/
theorem writeLoadedAndBase_setStat (s : State) (v : Status) (d r : RegNum) (w b : Word) :
    (s.setStat v).writeLoadedAndBase d r w b = (s.writeLoadedAndBase d r w b).setStat v := by
  unfold State.writeLoadedAndBase
  split <;> rfl

/-- Settles O22: STAT reaches nothing but STAT itself and the condition of a branch whose CC selects a bit. -/
theorem onlyConditionalBranchesReadStat : Obligations.OnlyConditionalBranchesReadStat := by
  unfold Obligations.OnlyConditionalBranchesReadStat
  intro i s v noRead
  have addr : loadAddr i s = loadAddr i (s.setStat v) := by cases i <;> rfl
  refine sameAnswer_exec addr rfl rfl fun w => ?_
  cases i with
  | bra cc target | brr cc target | bne cc target | bnr cc target =>
    have unconditional : cc = 0#4 := by simpa [Instr.readsStatus] using noRead
    simp only [stateAfter, unconditional, condHit_zero]
    rfl
  | ldp rd rs imm | ldr rd rs imm =>
    simp only [stateAfter, writeLoadedAndBase_setStat, setStat_setStat]
    rfl
  | _ => rfl

end Sys2Proof.Proofs
end

section
/-! PROOF. The memories as lists (log 6): canonical memories that read alike are equal, and where a loaded program
lies; and what reset leaves (`70_reset_and_hazards.md` R190 to R193). -/

namespace Sys2Proof.Proofs

open Sys2Proof.Machine

/-! ### The canonical form is determined by the reads -/

section
variable {n : Nat}

theorem find_cons (b a : Nat) (w : BitVec n) (m : Memory n) :
    Memory.find ((b, w) :: m) a = if b = a then some w else m.find a := rfl

/-- Below its first address a rising memory holds nothing. -/
theorem find_eq_none_of_lt {m : Memory n} {lo a : Nat} (h : Memory.risesFrom lo m = true) (ha : a < lo) :
    m.find a = none := by
  induction m generalizing lo with
  | nil => rfl
  | cons p m ih =>
    obtain ⟨b, w⟩ := p
    obtain ⟨hb, -, hm⟩ := Memory.risesFrom_cons.mp h
    rw [find_cons, if_neg (by omega), ih hm (by omega)]

/-- Two rising memories that read alike have one first address, one word there, and rests that read alike. -/
theorem eq_of_find_eq {m m' : Memory n} {lo : Nat} (h : Memory.risesFrom lo m = true)
    (h' : Memory.risesFrom lo m' = true) (alike : ∀ a < 65536, m.find a = m'.find a) : m = m' := by
  induction m generalizing lo m' with
  | nil =>
    cases m' with
    | nil => rfl
    | cons p' m' =>
      obtain ⟨b, w⟩ := p'
      obtain ⟨-, hb, -⟩ := Memory.risesFrom_cons.mp h'
      simpa [find_cons] using alike b hb
  | cons p m ih =>
    obtain ⟨b, w⟩ := p
    obtain ⟨hlo, hb, hm⟩ := Memory.risesFrom_cons.mp h
    cases m' with
    | nil => simpa [find_cons] using alike b hb
    | cons p' m' =>
      obtain ⟨b', w'⟩ := p'
      obtain ⟨hlo', hb', hm'⟩ := Memory.risesFrom_cons.mp h'
      rcases Nat.lt_trichotomy b b' with hlt | rfl | hlt
      · have nothing : Memory.find m' b = none := find_eq_none_of_lt hm' (by omega)
        simpa [find_cons, nothing, hlt.ne'] using alike b hb
      · have hw : w = w' := by simpa [find_cons] using alike b hb
        have rest : ∀ a < 65536, Memory.find m a = Memory.find m' a := fun a ha => by
          by_cases hab : b = a
          · rw [find_eq_none_of_lt hm (by omega), find_eq_none_of_lt hm' (by omega)]
          · simpa [find_cons, hab] using alike a ha
        rw [hw, ih hm hm' rest]
      · have nothing : Memory.find m b' = none := find_eq_none_of_lt hm (by omega)
        simpa [find_cons, nothing, hlt.ne'] using alike b' hb'

end

/-- Settles O14: an address is a 16-bit word or a number below 65536. -/
theorem canonicalMemoriesThatReadAlikeAreEqual : Obligations.CanonicalMemoriesThatReadAlikeAreEqual := by
  unfold Obligations.CanonicalMemoriesThatReadAlikeAreEqual
  intro n m m' wf wf' alike
  refine eq_of_find_eq wf wf' fun a ha => ?_
  simpa [BitVec.toNat_ofNat, Nat.mod_eq_of_lt ha] using alike (BitVec.ofNat 16 a)

/-! ### The host's load -/

/-- Writing words from `a` on puts the `k`-th at `a + k`, modulo 2^16; no later word overwrites an earlier one, there
being no more words than addresses. -/
theorem find_putWords {n : Nat} (m : Memory n) (a : Addr) (ws : List (BitVec n)) (c : Addr) (fits : ws.length ≤ 65536) :
    (m.putWords a ws).find c.toNat = (ws[(c - a).toNat]?).or (m.find c.toNat) := by
  induction ws generalizing m a with
  | nil => rfl
  | cons w ws ih =>
    rw [List.length_cons] at fits
    rw [Memory.putWords, ih _ _ (by omega)]
    by_cases hc : c = a
    · have last : (c - (a + 1#16)).toNat = 65535 := by bv_omega
      have beyond : ws[65535]? = none := List.getElem?_eq_none (by omega)
      rw [last, beyond, hc]
      simp
    · have before : (c - a).toNat = (c - (a + 1#16)).toNat + 1 := by bv_omega
      have other : c.toNat ≠ a.toNat := fun h => hc (BitVec.eq_of_toNat_eq h)
      rw [before, List.getElem?_cons_succ, Memory.find_put_other m w other]

/-- Settles O19: the load writes the program's words from address 0 on. -/
theorem loadedProgramLiesFromZero : Obligations.LoadedProgramLiesFromZero := by
  unfold Obligations.LoadedProgramLiesFromZero
  intro s ws a fits
  have written : (s.loadProgram ws).instrAt a = (ws[a.toNat]?).or (s.instrAt a) := by
    have h := find_putWords s.imem 0#16 ws a fits
    rwa [BitVec.sub_zero] at h
  rw [written]
  split
  next h => rw [List.getElem?_eq_getElem h, Option.some_or]
  next h => rw [List.getElem?_eq_none (Nat.not_lt.mp h), Option.none_or]

/-! ### Reset -/

/-- Settles O16, field by field of the state after reset. -/
theorem resetStartsAtZeroRunning : Obligations.ResetStartsAtZeroRunning := by
  unfold Obligations.ResetStartsAtZeroRunning
  exact ⟨rfl, rfl, fun _ => rfl, fun _ => rfl⟩

theorem regGet_resetRegs (r : RegNum) : regGet resetRegs r = 0#32 := by
  unfold regGet resetRegs
  split
  · rfl
  · exact Vector.getElem_replicate _

/-- Settles O17: the register file is all zeros. -/
theorem resetRegistersAndStatReadZero : Obligations.ResetRegistersAndStatReadZero := by
  unfold Obligations.ResetRegistersAndStatReadZero
  exact ⟨regGet_resetRegs, rfl⟩

/-- Settles O18: with two memories a reset moves no word. -/
theorem resetRestartsAndKeepsMemories : Obligations.ResetRestartsAndKeepsMemories := by
  unfold Obligations.ResetRestartsAndKeepsMemories
  exact fun s => ⟨rfl, rfl, fun _ => rfl, fun _ => rfl⟩

/-- Settles O26: by the laws of the register file. -/
theorem registerZeroReadsZeroAndDiscardsWrites : Obligations.RegisterZeroReadsZeroAndDiscardsWrites := by
  unfold Obligations.RegisterZeroReadsZeroAndDiscardsWrites
  exact fun s v => ⟨s.readReg_zero, s.writeReg_zero v⟩

end Sys2Proof.Proofs
end

section
/-! PROOF. The status bits in the "same as" readings of `40_alu.md` R101 and R102, what ADI, ADD and SUB leave, and the
thirteen comparisons that the branches test after SUB (`41_branch.md` R136). -/

namespace Sys2Proof.Proofs

open Sys2Proof.Machine

/-! ### The status bits -/

section
variable (c v n z : Bool)

@[simp] theorem getLsbD_packStatus_three : (packStatus c v n z).getLsbD 3 = c := by
  cases c <;> cases v <;> cases n <;> cases z <;> rfl
@[simp] theorem getLsbD_packStatus_two : (packStatus c v n z).getLsbD 2 = v := by
  cases c <;> cases v <;> cases n <;> cases z <;> rfl
@[simp] theorem getLsbD_packStatus_one : (packStatus c v n z).getLsbD 1 = n := by
  cases c <;> cases v <;> cases n <;> cases z <;> rfl
@[simp] theorem getLsbD_packStatus_zero : (packStatus c v n z).getLsbD 0 = z := by
  cases c <;> cases v <;> cases n <;> cases z <;> rfl

end

section
variable (a b : Word)

/-- Equal signs going in and another coming out: the exact sum is not a signed word. -/
theorem addOverflow_iff :
    addOverflow a b = true ↔ a.toInt + b.toInt < -2 ^ 31 ∨ 2 ^ 31 - 1 < a.toInt + b.toInt := by
  have h : addOverflow a b = a.saddOverflow b := by
    rw [BitVec.saddOverflow_eq]; rfl
  rw [h, BitVec.saddOverflow, Bool.or_eq_true, decide_eq_true_iff, decide_eq_true_iff]
  omega

theorem subOverflow_iff :
    subOverflow a b = true ↔ a.toInt - b.toInt < -2 ^ 31 ∨ 2 ^ 31 - 1 < a.toInt - b.toInt := by
  have h : subOverflow a b = a.ssubOverflow b := by
    rw [BitVec.ssubOverflow_eq, subOverflow]
    cases a.msb <;> cases b.msb <;> simp
  rw [h, BitVec.ssubOverflow, Bool.or_eq_true, decide_eq_true_iff, decide_eq_true_iff]
  omega

end

/-- Bit 31 of a wrapped result, inverted exactly where it wrapped, is the sign of the exact result `e`. -/
theorem exactSign_iff {r : Word} {e : Int} {v : Bool} (wrapped : r.toInt = e.bmod (2 ^ 32)) (low : -2 ^ 32 ≤ e)
    (high : e < 2 ^ 32) (overflow : v = true ↔ e < -2 ^ 31 ∨ 2 ^ 31 - 1 < e) : exactSign r v = true ↔ e < 0 := by
  have sign : r.msb = true ↔ r.toInt < 0 := by rw [BitVec.msb_eq_toInt, decide_eq_true_iff]
  rw [wrapped, Int.bmod_def] at sign

  unfold exactSign
  cases v with
  | false =>
    have inside := mt overflow.mpr Bool.false_ne_true
    rw [Bool.xor_false, sign]
    omega
  | true =>
    have outside := overflow.mp rfl
    rw [Bool.xor_true, Bool.not_eq_true', ← Bool.not_eq_true, sign]
    omega

section
variable (a b : Word)

theorem exactSign_add_iff : exactSign (a + b) (addOverflow a b) = true ↔ a.toInt + b.toInt < 0 := by
  have ha := a.toInt_lt
  have hb := b.toInt_lt
  have ha' := a.le_toInt
  have hb' := b.le_toInt
  exact exactSign_iff (BitVec.toInt_add a b) (by omega) (by omega) (addOverflow_iff a b)

theorem exactSign_sub_iff : exactSign (a - b) (subOverflow a b) = true ↔ a.toInt < b.toInt := by
  have ha := a.toInt_lt
  have hb := b.toInt_lt
  have ha' := a.le_toInt
  have hb' := b.le_toInt
  rw [exactSign_iff BitVec.toInt_sub (by omega) (by omega) (subOverflow_iff a b), sub_neg]

theorem exactAddStatus_addStatus : ExactAddStatus a b (addStatus a b) := by
  simp only [ExactAddStatus, addStatus, getLsbD_packStatus_three, getLsbD_packStatus_two, getLsbD_packStatus_one,
    getLsbD_packStatus_zero]
  exact ⟨decide_eq_true_iff, addOverflow_iff a b, exactSign_add_iff a b, beq_iff_eq⟩

theorem exactSubStatus_subStatus : ExactSubStatus a b (subStatus a b) := by
  simp only [ExactSubStatus, subStatus, getLsbD_packStatus_three, getLsbD_packStatus_two, getLsbD_packStatus_one,
    getLsbD_packStatus_zero]
  exact ⟨decide_eq_true_iff, subOverflow_iff a b, exactSign_sub_iff a b, beq_iff_eq.trans sub_eq_zero⟩

end

/-! ### ADI, ADD and SUB -/

section
variable (s : State) (rd : RegNum) (st : Status) (v : Word)

theorem readReg_arith_same : (s.arith rd st v).readReg rd = if rd = 0#4 then 0#32 else v := by
  rw [State.arith_readReg, State.readReg_writeReg_same]

theorem onlyRegsAndStat_arith : OnlyRegsAndStat [rd] s (s.arith rd st v) := by
  have regs : RegsKeptBut [rd] s (s.arith rd st v) := fun r hr => by
    rw [State.arith_readReg, State.readReg_writeReg_other s v (List.ne_of_not_mem_cons hr)]
  exact ⟨regs, rfl, fun _ => rfl, rfl, rfl, rfl⟩

end

/-- Settles O29: the status by the exact readings, under either setting of `ADI_WRITES_STATUS`. -/
theorem adiWritesSumAndStatus : Obligations.AdiWritesSumAndStatus := by
  unfold Obligations.AdiWritesSumAndStatus
  intro rd rs imm s
  refine ⟨_, exec_adi s rd rs imm, readReg_arith_same s rd _ _, ?_, onlyRegsAndStat_arith s rd _ _⟩
  rw [State.arith_stat]
  split
  · exact exactAddStatus_addStatus _ _
  · rfl

/-- Settles O30: the status by the exact readings of an addition. -/
theorem addWritesSumAndStatus : Obligations.AddWritesSumAndStatus := by
  unfold Obligations.AddWritesSumAndStatus
  exact fun rd rs rt s => ⟨_, exec_add s rd rs rt, readReg_arith_same s rd _ _, exactAddStatus_addStatus _ _,
    onlyRegsAndStat_arith s rd _ _⟩

/-- Settles O31: the status by the exact readings of a subtraction. -/
theorem subWritesDifferenceAndStatus : Obligations.SubWritesDifferenceAndStatus := by
  unfold Obligations.SubWritesDifferenceAndStatus
  exact fun rd rs rt s => ⟨_, exec_sub s rd rs rt, readReg_arith_same s rd _ _, exactSubStatus_subStatus _ _,
    onlyRegsAndStat_arith s rd _ _⟩

/-! ### The branches after SUB -/

section
variable {cc : CondMask} {t : State} {P : Prop}

theorem positiveTakenIff_of_condHit (h : condHit cc t.stat = true ↔ P) : PositiveTakenIff cc t P := by
  intro imm
  rw [exec_bra, exec_brr]
  refine ⟨fun hP => ?_, fun hP => ?_⟩
  · rw [h.mpr hP]; exact ⟨rfl, rfl⟩
  · rw [Bool.eq_false_iff.mpr (mt h.mp hP)]; exact ⟨rfl, rfl⟩

theorem negativeTakenIff_of_condHit (h : condHit cc t.stat = true ↔ ¬P) : NegativeTakenIff cc t P := by
  intro imm
  rw [exec_bne, exec_bnr]
  refine ⟨fun hP => ?_, fun hP => ?_⟩
  · rw [Bool.eq_false_iff.mpr (mt h.mp (not_not_intro hP))]; exact ⟨rfl, rfl⟩
  · rw [h.mpr hP]; exact ⟨rfl, rfl⟩

end

/-! What the masks of R136 select. -/

section
variable (st : Status)

theorem condHit_Z : condHit 0b0001#4 st = true ↔ st.getLsbD 0 = true := by revert st; decide
theorem condHit_N : condHit 0b0010#4 st = true ↔ st.getLsbD 1 = true := by revert st; decide
theorem condHit_NZ : condHit 0b0011#4 st = true ↔ st.getLsbD 1 = true ∨ st.getLsbD 0 = true := by revert st; decide
theorem condHit_V : condHit 0b0100#4 st = true ↔ st.getLsbD 2 = true := by revert st; decide
theorem condHit_C : condHit 0b1000#4 st = true ↔ st.getLsbD 3 = true := by revert st; decide
theorem condHit_CZ : condHit 0b1001#4 st = true ↔ st.getLsbD 3 = true ∨ st.getLsbD 0 = true := by revert st; decide
theorem condHit_none : condHit 0b0000#4 st = true ↔ False := by revert st; decide

end

/-- Settles O41: each mask selects the bits that hold the comparison, and a branch is taken on them or on their
negation. -/
theorem branchesAfterSubTestTheComparison : Obligations.BranchesAfterSubTestTheComparison := by
  unfold Obligations.BranchesAfterSubTestTheComparison
  intro rd rs rt s t h a b
  obtain ⟨below, overflow, less, equal⟩ : ExactSubStatus a b t.stat := by
    cases exec_sub s rd rs rt ▸ h
    exact exactSubStatus_subStatus a b
  have same : a = b ↔ a.toInt = b.toInt := BitVec.toInt_inj.symm
  have same' : a = b ↔ a.toNat = b.toNat := BitVec.toNat_inj.symm
  have eq := (condHit_Z t.stat).trans equal
  have lt := (condHit_N t.stat).trans less
  have le : condHit 0b0011#4 t.stat = true ↔ a.toInt ≤ b.toInt := by rw [condHit_NZ, less, equal, same]; omega
  have ltu := (condHit_C t.stat).trans below
  have leu : condHit 0b1001#4 t.stat = true ↔ a.toNat ≤ b.toNat := by rw [condHit_CZ, below, equal, same']; omega
  have ov := (condHit_V t.stat).trans overflow
  have never := condHit_none t.stat
  exact ⟨positiveTakenIff_of_condHit eq, negativeTakenIff_of_condHit (eq.trans not_not.symm),
    positiveTakenIff_of_condHit lt, negativeTakenIff_of_condHit (lt.trans not_le.symm),
    positiveTakenIff_of_condHit le, negativeTakenIff_of_condHit (le.trans not_lt.symm),
    positiveTakenIff_of_condHit ltu, negativeTakenIff_of_condHit (ltu.trans not_le.symm),
    positiveTakenIff_of_condHit leu, negativeTakenIff_of_condHit (leu.trans not_lt.symm),
    positiveTakenIff_of_condHit ov, negativeTakenIff_of_condHit (never.trans not_true.symm),
    positiveTakenIff_of_condHit never⟩

end Sys2Proof.Proofs
end

section
/-! PROOF. Rotates and shifts (`40_alu.md` R112 to R115) under the model's count, the low five bits of Rt (R104). -/

namespace Sys2Proof.Proofs

open Sys2Proof.Machine

theorem shiftCount_eq (s : State) (rt : RegNum) : s.shiftCount rt = (s.readReg rt).toNat % 32 := by
  simp [State.shiftCount, settings, lowFiveBits]

section
variable (x : Word) (n : Nat) {k : Nat}

theorem getLsbD_rotateRight_word (hk : k < 32) : (x.rotateRight n).getLsbD k = x.getLsbD ((k + n) % 32) := by
  rw [BitVec.getLsbD_rotateRight]
  by_cases h : k < 32 - n % 32
  · have : n % 32 + k = (k + n) % 32 := by omega
    simp [h, this]
  · have : k - (32 - n % 32) = (k + n) % 32 := by omega
    simp [h, hk, this]

theorem getLsbD_rotateLeft_word (hk : k < 32) : (x.rotateLeft n).getLsbD ((k + n) % 32) = x.getLsbD k := by
  rw [BitVec.getLsbD_rotateLeft]
  by_cases h : (k + n) % 32 < n % 32
  · have : 32 - n % 32 + (k + n) % 32 = k := by omega
    simp [h, this]
  · have : (k + n) % 32 - n % 32 = k := by omega
    simp [h, this]; omega

end

/-- The two rotations of a word turn it by the same angle if their counts add up to a full turn. -/
theorem rotateLeft_eq_rotateRight (x : Word) {n m : Nat} (h : m % 32 = (32 - n % 32) % 32) :
    x.rotateLeft n = x.rotateRight m := by
  apply BitVec.eq_of_getLsbD_eq
  intro k hk
  rw [getLsbD_rotateRight_word x m hk]
  have back : ((k + m) % 32 + n) % 32 = k := by omega
  have inside : (k + m) % 32 < 32 := Nat.mod_lt _ (by decide)
  simpa [back] using getLsbD_rotateLeft_word x n inside

/-- Settles O36: the count is Rt modulo 32, which turns a word by as many places as Rt does. -/
theorem rotatesMoveEveryBit : Obligations.RotatesMoveEveryBit := by
  unfold Obligations.RotatesMoveEveryBit
  intro rd rs rt s
  refine ⟨⟨_, exec_rtr s rd rs rt, onlyRegs_logic s rd _, fun k hk => ?_⟩,
    ⟨_, exec_rtl s rd rs rt, onlyRegs_logic s rd _, fun k hk => ?_⟩⟩
  · rw [getLsbD_readReg_logic, getLsbD_rotateRight_word _ _ hk, shiftCount_eq, Nat.add_mod_mod]
  · rw [getLsbD_readReg_logic, ← Nat.add_mod_mod, ← shiftCount_eq, getLsbD_rotateLeft_word _ _ hk]

/-- Settles O37: the two counts make a full turn. -/
theorem rotateLeftIsRotateRightByTheRest : Obligations.RotateLeftIsRotateRightByTheRest := by
  unfold Obligations.RotateLeftIsRotateRightByTheRest
  intro rd rs rt rt' s h
  have turn : s.shiftCount rt' % 32 = (32 - s.shiftCount rt % 32) % 32 := by
    rw [shiftCount_eq, shiftCount_eq, Nat.mod_mod, Nat.mod_mod, h]
  rw [exec_rtl, exec_rtr, rotateLeft_eq_rotateRight _ turn]

theorem toNat_readReg_logic (s : State) (rd : RegNum) (v : Word) :
    ((s.logic rd v).readReg rd).toNat = if rd = 0#4 then 0 else v.toNat := by
  rw [State.logic_eq, State.readReg_writeReg_same]
  split <;> rfl

/-- Settles O38: with zeros shifted in, the shift drops the remainder. -/
theorem shrDividesByAPowerOfTwo : Obligations.ShrDividesByAPowerOfTwo := by
  unfold Obligations.ShrDividesByAPowerOfTwo
  refine fun rd rs rt s => ⟨_, exec_shr s rd rs rt, ?_, onlyRegs_logic s rd _⟩
  have quotient : (shiftRight settings.shrFill (s.readReg rs) (s.shiftCount rt)).toNat =
      (s.readReg rs).toNat / 2 ^ s.shiftCount rt :=
    (BitVec.toNat_ushiftRight _ _).trans (Nat.shiftRight_eq_div_pow _ _)
  rw [toNat_readReg_logic, quotient]
  rfl

/-- Settles O39: the shift drops what leaves the word. -/
theorem shlMultipliesByAPowerOfTwo : Obligations.ShlMultipliesByAPowerOfTwo := by
  unfold Obligations.ShlMultipliesByAPowerOfTwo
  refine fun rd rs rt s => ⟨_, exec_shl s rd rs rt, ?_, onlyRegs_logic s rd _⟩
  rw [toNat_readReg_logic, BitVec.toNat_shiftLeft, Nat.shiftLeft_eq]
  rfl

end Sys2Proof.Proofs
end

section
/-! PROOF. Loads, and the stores that move their base (`42_load_store_swap.md` R142 to R151), and what a load finds
after a store (`20_memory.md` R47). -/

namespace Sys2Proof.Proofs

open Sys2Proof.Machine

/-! ### LDX and LDA -/

theorem onlyRegs_writeReg (s : State) (rd : RegNum) (w : Word) : OnlyRegs [rd] s (s.writeReg rd w) :=
  State.logic_eq s rd w ▸ onlyRegs_logic s rd w

/-- Settles O43: one write of Rd, with the word that the address holds. -/
theorem loadsWithoutUpdateCopyTheWord : Obligations.LoadsWithoutUpdateCopyTheWord := by
  unfold Obligations.LoadsWithoutUpdateCopyTheWord
  refine fun rd rs imm s w => ⟨fun loaded => ?_, fun loaded => ?_⟩
  · exact ⟨_, exec_of_loaded (.ldx rd rs imm) rfl loaded, s.readReg_writeReg_same rd w, onlyRegs_writeReg s rd w⟩
  · exact ⟨_, exec_of_loaded (.lda rd imm) rfl loaded, s.readReg_writeReg_same rd w, onlyRegs_writeReg s rd w⟩

/-! ### LDP and LDR -/

section
variable (s : State) {rd rs : RegNum} (w b : Word)

/-- Where the two writes do not fall on one register other than R0, no draw is made. -/
theorem writeLoadedAndBase_of_no_draw (h : rd ≠ rs ∨ rd = 0#4) :
    s.writeLoadedAndBase rd rs w b = (s.writeReg rd w).writeReg rs b :=
  if_neg fun ⟨same, nonzero⟩ => h.elim (· same) nonzero

theorem readReg_loaded (h : rd ≠ rs ∨ rd = 0#4) :
    (s.writeLoadedAndBase rd rs w b).readReg rd = if rd = 0#4 then 0#32 else w := by
  rw [writeLoadedAndBase_of_no_draw s w b h]
  obtain hne | rfl := h
  · rw [State.readReg_writeReg_other _ _ hne, State.readReg_writeReg_same]
  · exact State.readReg_zero _

theorem readReg_base (h : rd ≠ rs ∨ rd = 0#4) :
    (s.writeLoadedAndBase rd rs w b).readReg rs = if rs = 0#4 then 0#32 else b := by
  rw [writeLoadedAndBase_of_no_draw s w b h, State.readReg_writeReg_same]

theorem onlyRegs_of_subset {ds es : List RegNum} {s t : State} (h : OnlyRegs ds s t) (sub : ds ⊆ es) :
    OnlyRegs es s t := by
  obtain ⟨regs, rest⟩ := h
  exact ⟨fun r hr => regs r fun hd => hr (sub hd), rest⟩

theorem onlyRegs_writeLoadedAndBase (h : rd ≠ rs ∨ rd = 0#4) :
    OnlyRegs [rd, rs] s (s.writeLoadedAndBase rd rs w b) := by
  rw [writeLoadedAndBase_of_no_draw s w b h]
  exact onlyRegs_of_subset (onlyRegs_writeReg_writeReg s rd rs w b) (List.Perm.swap rd rs []).subset

end

/-- Settles O44: the two loads differ in their address only. -/
theorem loadsWithUpdateCopyTheWordAndMoveTheBase : Obligations.LoadsWithUpdateCopyTheWordAndMoveTheBase := by
  unfold Obligations.LoadsWithUpdateCopyTheWordAndMoveTheBase
  refine fun rd rs imm s w h => ⟨fun loaded => ?_, fun loaded => ?_⟩
  · exact ⟨_, exec_of_loaded (.ldp rd rs imm) rfl loaded, readReg_loaded s w _ h, readReg_base s w _ h,
      onlyRegs_writeLoadedAndBase s w _ h⟩
  · exact ⟨_, exec_of_loaded (.ldr rd rs imm) rfl loaded, readReg_loaded s w _ h, readReg_base s w _ h,
      onlyRegs_writeLoadedAndBase s w _ h⟩

/-- The draw of LDP and LDR on one register other than R0: one of two values, one draw, and nothing else. -/
theorem writeLoadedAndBase_draw (s : State) {r : RegNum} (w b : Word) (nonzero : r ≠ 0#4) :
    ((s.writeLoadedAndBase r r w b).readReg r = w ∨ (s.writeLoadedAndBase r r w b).readReg r = b) ∧
      (s.writeLoadedAndBase r r w b).draws = s.draws + 1 ∧
      OnlyRegs [r] s { s.writeLoadedAndBase r r w b with draws := s.draws } := by
  rw [State.writeLoadedAndBase_same s w b nonzero]
  refine ⟨?_, rfl, onlyRegs_writeReg s r _⟩
  rw [State.drawn_readReg, State.readReg_writeReg_same, if_neg nonzero]
  exact ite_eq_or_eq _ w b

/-- Settles O45: the two loads differ in their address only. -/
theorem loadIntoItsOwnBaseTakesEitherValue : Obligations.LoadIntoItsOwnBaseTakesEitherValue := by
  unfold Obligations.LoadIntoItsOwnBaseTakesEitherValue
  refine fun r imm s w nonzero => ⟨fun loaded => ?_, fun loaded => ?_⟩
  · exact ⟨_, exec_of_loaded (.ldp r r imm) rfl loaded, writeLoadedAndBase_draw s w _ nonzero⟩
  · exact ⟨_, exec_of_loaded (.ldr r r imm) rfl loaded, writeLoadedAndBase_draw s w _ nonzero⟩

/-! ### STP and STR -/

/-- A store and a write of the base: the data word is the one stored, and only it and the base changed. -/
theorem onlyRegsAndWord_putData_writeReg (s : State) (a : Addr) (v : Word) (rs : RegNum) (b : Word) :
    OnlyRegsAndWord [rs] a s ((s.putData a v).writeReg rs b) := by
  obtain ⟨-, stat, pc, data, rest⟩ := onlyRegsAndWord_putData s a v
  have regs : RegsKeptBut [rs] s ((s.putData a v).writeReg rs b) := fun r hr => by
    rw [State.readReg_writeReg_other _ _ (List.ne_of_not_mem_cons hr), State.putData_readReg]
  exact ⟨regs, stat, pc, data, rest⟩

theorem dataAt_putData_same (s : State) (a : Addr) (v : Word) : (s.putData a v).dataAt a = some v := by
  rw [State.dataAt_putData, if_pos rfl]

/-- Settles O49: the two stores differ in their address only; both values are read before the base is written. -/
theorem storesWithUpdateStoreTheOldValue : Obligations.StoresWithUpdateStoreTheOldValue := by
  unfold Obligations.StoresWithUpdateStoreTheOldValue
  refine fun rd rs imm s => ⟨?_, ?_⟩
  · exact ⟨_, exec_stp s rd rs imm, dataAt_putData_same s _ _, State.readReg_writeReg_same _ rs _,
      onlyRegsAndWord_putData_writeReg s _ _ rs _⟩
  · exact ⟨_, exec_str s rd rs imm, dataAt_putData_same s _ _, State.readReg_writeReg_same _ rs _,
      onlyRegsAndWord_putData_writeReg s _ _ rs _⟩

/-! ### A load after a store -/

theorem dataAt_of_exec_store {i : Instr} {s t : State} {a : Addr} {v : Word} (store : storeEffect i s = some (a, v))
    (h : exec i s = .next t) : t.dataAt a = some v := by
  obtain ⟨w, rfl⟩ := exec_eq_next h
  simp [dataAt_stateAfter, store]

/-- An instruction that does not store to `a` leaves the data word there. -/
theorem dataAt_of_exec_no_store {i : Instr} {s t : State} {a : Addr}
    (noStore : (storeEffect i s).map Prod.fst ≠ some a) (h : exec i s = .next t) : t.dataAt a = s.dataAt a := by
  obtain ⟨w, rfl⟩ := exec_eq_next h
  rw [dataAt_stateAfter]
  cases hs : storeEffect i s with
  | none => rfl
  | some e =>
    have other : a ≠ e.1 := fun h => noStore (by rw [hs, h]; rfl)
    exact if_neg other

/-- Nor does any list of such instructions, by induction on the list. -/
theorem dataAt_of_runsWithoutStoreTo {a : Addr} {js : List Instr} {s u : State} (h : RunsWithoutStoreTo a js s u) :
    u.dataAt a = s.dataAt a := by
  induction js generalizing s with
  | nil => rw [show u = s from h]
  | cons j js ih =>
    obtain ⟨noStore, t, ht, hu⟩ := h
    exact (ih hu).trans (dataAt_of_exec_no_store noStore ht)

/-- What LDP and LDR leave in Rd, whether or not they draw. -/
theorem readReg_loaded_or_base (u : State) (rd rs : RegNum) (w b : Word) :
    if rd = 0#4 then (u.writeLoadedAndBase rd rs w b).readReg rd = 0#32
    else if rd = rs then
      (u.writeLoadedAndBase rd rs w b).readReg rd = w ∨ (u.writeLoadedAndBase rd rs w b).readReg rd = b
    else (u.writeLoadedAndBase rd rs w b).readReg rd = w := by
  split_ifs with zero same
  · rw [zero, State.readReg_zero]
  · subst same
    exact (writeLoadedAndBase_draw u w b zero).1
  · rw [readReg_loaded u w b (.inl same), if_neg zero]

/-- Settles O50: the word stays where it was stored until it is loaded, and each load then puts it where it says. -/
theorem loadReturnsTheLatestStore : Obligations.LoadReturnsTheLatestStore := by
  unfold Obligations.LoadReturnsTheLatestStore
  intro i js s t u a v store ht hu
  have stored : u.dataAt a = some v := (dataAt_of_runsWithoutStoreTo hu).trans (dataAt_of_exec_store store ht)
  refine ⟨stored, fun j load => ⟨_, exec_of_loaded j load stored, ?_⟩⟩
  cases j with
  | ldx rd rs imm => exact u.readReg_writeReg_same rd v
  | lda rd imm => exact u.readReg_writeReg_same rd v
  | ldp rd rs imm => exact readReg_loaded_or_base u rd rs v _
  | ldr rd rs imm => exact readReg_loaded_or_base u rd rs v _
  | _ => trivial

/-- An offset of -1 and one of +1 cancel. -/
theorem add_sext32_minus_one_add_sext32_one (v : Word) : v + sext32 0xFFFF#16 + sext32 0x0001#16 = v := by
  have cancel : sext32 0xFFFF#16 + sext32 0x0001#16 = 0#32 := by decide
  rw [BitVec.add_assoc, cancel, BitVec.add_zero]

/-- Settles O51: the push leaves its address in the base, where the pop finds it. -/
theorem pushThenPopGivesTheWordBack : Obligations.PushThenPopGivesTheWordBack := by
  unfold Obligations.PushThenPopGivesTheWordBack
  intro rd rq rs s nonzero hne
  obtain ⟨⟨t, ht, pushed, base, -, -, -, pushKeeps, -⟩, -⟩ := storesWithUpdateStoreTheOldValue rd rs 0xFFFF#16 s
  rw [if_neg nonzero] at base
  have addr : t.registerAddr rs = s.indexedAddr rs 0xFFFF#16 := congrArg dataAddr base
  obtain ⟨-, pop⟩ := loadsWithUpdateCopyTheWordAndMoveTheBase rq rs 0x0001#16 t (s.readReg rd) (.inl hne)
  obtain ⟨u, hu, popped, restored, -, -, -, popKeeps, -⟩ := pop (addr ▸ pushed)
  refine ⟨t, u, ht, hu, popped, ?_, fun b hb => (popKeeps b).trans (pushKeeps b hb)⟩
  calc u.readReg rs
      = s.readReg rs + sext32 0xFFFF#16 + sext32 0x0001#16 := by rw [restored, if_neg nonzero, base]; rfl
    _ = s.readReg rs := add_sext32_minus_one_add_sext32_one _

end Sys2Proof.Proofs
end

section
/-! PROOF. The pseudo-instructions (`30_encoding.md` R78 to R84), each by the statement about the instruction it stands
for, and the recipe for a 32-bit constant (R69). -/

namespace Sys2Proof.Proofs

open Sys2Proof.Machine

/-! ### The exact status on the pseudo-instructions' operands -/

section
variable {st : Status}

theorem eq_of_exactAddStatus_zero_zero (h : ExactAddStatus 0#32 0#32 st) : st = 0b0001#4 := by
  revert st
  unfold ExactAddStatus
  decide

/-- Zero and a sign-extended immediate: neither carry nor overflow, and the immediate's own sign and zero. -/
theorem exactAddStatus_zero_sext {imm : Imm} (h : ExactAddStatus 0#32 (imm.signExtend 32) st) :
    st.getLsbD 3 = false ∧ st.getLsbD 2 = false ∧ st.getLsbD 1 = imm.getLsbD 15 ∧ st.getLsbD 0 = (imm == 0#16) := by
  have value : (imm.signExtend 32).toInt = imm.toInt := BitVec.toInt_signExtend_of_le (by decide)
  have sign : imm.getLsbD 15 = true ↔ imm.toInt < 0 :=
    calc imm.getLsbD 15 = true
        ↔ imm.msb = true := by rw [BitVec.msb_eq_getLsbD_last]
      _ ↔ imm.toInt < 0 := by rw [BitVec.msb_eq_toInt, decide_eq_true_iff]
  have zero : (imm == 0#16) = true ↔ 0#32 + imm.signExtend 32 = 0#32 := by
    rw [beq_iff_eq, BitVec.zero_add, ← BitVec.toInt_inj, ← BitVec.toInt_inj, value]
    rfl
  have below := (imm.signExtend 32).isLt
  have low := imm.le_toInt
  have high := imm.toInt_lt
  simp only [ExactAddStatus, value, BitVec.toInt_zero, BitVec.toNat_ofNat, Int.zero_add] at h
  obtain ⟨c, v, n, z⟩ := h
  refine ⟨?_, ?_, Bool.eq_iff_iff.mpr (n.trans sign.symm), Bool.eq_iff_iff.mpr (z.trans zero.symm)⟩
  · exact Bool.eq_false_iff.mpr (mt c.mp (by omega))
  · exact Bool.eq_false_iff.mpr (mt v.mp (by omega))

/-- Adding 0xFFFFFFFF carries unless the other summand is zero. -/
theorem carry_add_minus_one {x : Word} (h : ExactAddStatus x 0xFFFFFFFF#32 st) : st.getLsbD 3 = (x != 0#32) := by
  obtain ⟨c, -⟩ := h
  rw [Bool.eq_iff_iff, c, bne_iff_ne]
  bv_omega

/-- The status of a negation: only zero borrows nothing, and only -2^31 has no negative. -/
theorem exactSubStatus_zero_left {x : Word} (h : ExactSubStatus 0#32 x st) :
    st.getLsbD 3 = (x != 0#32) ∧ st.getLsbD 2 = (x == 0x80000000#32) ∧ st.getLsbD 1 = decide (0 < x.toInt) ∧
      st.getLsbD 0 = (x == 0#32) := by
  obtain ⟨c, v, n, z⟩ := h
  have low := x.le_toInt
  have high := x.toInt_lt
  have least : x = 0x80000000#32 ↔ x.toInt = -2 ^ 31 := BitVec.toInt_inj.symm
  refine ⟨?_, ?_, ?_, ?_⟩
  · rw [Bool.eq_iff_iff, c, bne_iff_ne]
    bv_omega
  · rw [Bool.eq_iff_iff, v, beq_iff_eq, least, BitVec.toInt_zero]
    omega
  · rw [Bool.eq_iff_iff, n, decide_eq_true_iff, BitVec.toInt_zero]
  · rw [Bool.eq_iff_iff, z, beq_iff_eq, eq_comm]

end

theorem signExtend_one : (0x0001#16).signExtend 32 = 1#32 := by decide
theorem signExtend_minus_one : (0xFFFF#16).signExtend 32 = 0xFFFFFFFF#32 := by decide
theorem add_minus_one (x : Word) : x + 0xFFFFFFFF#32 = x - 1#32 := by bv_omega

/-- With Rd = R0 the operand is zero, and so is the discarded result. -/
theorem ite_zero_sub_readReg (s : State) (rd : RegNum) :
    (if rd = 0#4 then 0#32 else 0#32 - s.readReg rd) = 0#32 - s.readReg rd :=
  ite_eq_right_iff.mpr fun h => by rw [h, State.readReg_zero]; rfl

/-- Settles O53: CLR is an addition, LRI, INC and DEC are additions of an immediate, NEG is a subtraction. -/
theorem pseudoInstructionsDoTheirArithmetic : Obligations.PseudoInstructionsDoTheirArithmetic := by
  unfold Obligations.PseudoInstructionsDoTheirArithmetic
  intro rd imm s x
  refine ⟨?_, ?_, ?_, ?_, ?_⟩
  · obtain ⟨t, ht, sum, status, frame⟩ := addWritesSumAndStatus rd 0#4 0#4 s
    exact ⟨t, ht, sum.trans (ite_self _), eq_of_exactAddStatus_zero_zero status, frame⟩
  · obtain ⟨t, ht, sum, status, frame⟩ := adiWritesSumAndStatus rd 0#4 imm s
    rw [State.readReg_zero, BitVec.zero_add] at sum
    refine ⟨t, ht, sum, ?_, frame⟩
    split_ifs at status ⊢
    · exact exactAddStatus_zero_sext status
    · exact status
  · obtain ⟨t, ht, sum, status, frame⟩ := adiWritesSumAndStatus rd rd 0x0001#16 s
    rw [signExtend_one] at sum status
    exact ⟨t, ht, sum, status, frame⟩
  · obtain ⟨t, ht, sum, status, frame⟩ := adiWritesSumAndStatus rd rd 0xFFFF#16 s
    rw [signExtend_minus_one] at sum status
    rw [add_minus_one] at sum
    refine ⟨t, ht, sum, ?_, frame⟩
    split_ifs at status ⊢
    · exact ⟨status, carry_add_minus_one status⟩
    · exact status
  · obtain ⟨t, ht, difference, status, frame⟩ := subWritesDifferenceAndStatus rd 0#4 rd s
    obtain ⟨c, v, n, z⟩ := exactSubStatus_zero_left status
    exact ⟨t, ht, difference.trans (ite_zero_sub_readReg s rd), c, v, n, z, frame⟩

/-! ### STI and LDI -/

theorem indexedAddr_zero_offset (s : State) (rs : RegNum) :
    s.indexedAddr rs 0x0000#16 = (s.readReg rs).extractLsb' 0 16 := by
  rw [indexedAddr_eq_registerAddr_add, BitVec.add_zero, registerAddr_eq_extractLsb']

/-- Settles O54: STX and LDX with offset 0. -/
theorem pseudoInstructionsReachMemoryIndirectly : Obligations.PseudoInstructionsReachMemoryIndirectly := by
  unfold Obligations.PseudoInstructionsReachMemoryIndirectly
  intro rd rs s a
  have addr : s.indexedAddr rs 0x0000#16 = a := indexedAddr_zero_offset s rs
  refine ⟨?_, fun w loaded => ?_⟩
  · exact addr ▸ ⟨_, exec_stx s rd rs 0x0000#16, dataAt_putData_same s _ _, onlyRegsAndWord_putData s _ _⟩
  · exact (loadsWithoutUpdateCopyTheWord rd rs 0x0000#16 s w).1 (addr ▸ loaded)

/-! ### A constant from two halves -/

theorem toNat_upper_half (hi : Imm) : (hi.signExtend 32 <<< 16).toNat = hi.toNat * 65536 := by
  rw [BitVec.toNat_shiftLeft, BitVec.toNat_signExtend, Nat.shiftLeft_eq, BitVec.toNat_setWidth]
  split <;> omega

theorem toNat_lower_half (lo : Imm) : (lo.signExtend 32).toNat = lo.toNat + if lo.msb then 0xFFFF0000 else 0 := by
  rw [BitVec.toNat_signExtend, BitVec.toNat_setWidth, Nat.mod_eq_of_lt (by omega)]

theorem toNat_halves (hi lo : Imm) : (hi ++ lo).toNat = hi.toNat * 65536 + lo.toNat := by
  rw [BitVec.toNat_append, ← Nat.shiftLeft_add_eq_or_of_lt lo.isLt, Nat.shiftLeft_eq]

/-- Sign extension of the lower half takes one from the upper half where its bit 15 is set. -/
theorem halves_append (hi lo : Imm) :
    (if lo.msb then hi + 1#16 else hi).signExtend 32 <<< 16 + lo.signExtend 32 = hi ++ lo := by
  apply BitVec.eq_of_toNat_eq
  rw [BitVec.toNat_add, toNat_upper_half, toNat_lower_half, toNat_halves]
  split
  · rw [BitVec.toNat_add, BitVec.toNat_ofNat]
    omega
  · omega

/-- Settles O55: the three results in turn. -/
theorem twoHalvesBuildAConstant : Obligations.TwoHalvesBuildAConstant := by
  unfold Obligations.TwoHalvesBuildAConstant
  intro rd rc hi lo s nonzero other sixteen
  obtain ⟨t, ht, upper, -, kept, -⟩ := adiWritesSumAndStatus rd 0#4 (if lo.msb then hi + 1#16 else hi) s
  have count : t.shiftCount rc = 16 := by
    rw [shiftCount_eq, kept rc (by simpa using other), sixteen]
    rfl
  have hu := exec_shl t rd rd rc
  obtain ⟨v, hv, sum, -⟩ := adiWritesSumAndStatus rd rd lo (t.logic rd (t.readReg rd <<< t.shiftCount rc))
  refine ⟨t, _, v, ht, hu, hv, ?_⟩
  rw [sum, if_neg nonzero, State.logic_eq, State.readReg_writeReg_same, if_neg nonzero, count, upper, if_neg nonzero,
    State.readReg_zero, BitVec.zero_add, halves_append]

end Sys2Proof.Proofs
end
